-- ==== Sys2Proof/Word.lean ====
section
/-! DEFINITION. The word types of KBDCORE: the widths the spec fixes (00_scope.md R6, R7). -/

namespace Sys2Proof

/-- A received byte, a command byte, a byte of storage (R7, R62). -/
abbrev Byte := BitVec 8

/-- A ring index or a command length: IDX_W = LEN_W = 32 (R6). Arithmetic wraps modulo 2^32 (R7). -/
abbrev Count := BitVec 32

/-- The 7-bit scan code of a key-transition code (R81). -/
abbrev ScanCode := BitVec 7

/-- A stimulus word (R91). -/
abbrev StimWord := BitVec 16

end Sys2Proof
end

