-- ==== Sys2Proof/Config.lean ====
section
/-! DEFINITION. What an implementation of KBDCORE fixes (00_scope.md R6, 30_encoding.md R85) and the
free values: what the spec leaves open, as constants without a body. -/

namespace Sys2Proof

/-- The package kinds (30_encoding.md R86); codes 6 and 7 are never held. -/
inductive Kind where
  | mem | ams | rms | clk | joy0 | joy1
  deriving DecidableEq, Repr, Inhabited

/-- The numeric kind code, as PKG_KIND and the PTR port carry it (R86). -/
def Kind.code : Kind → BitVec 3
  | .mem => 0
  | .ams => 1
  | .rms => 2
  | .clk => 3
  | .joy0 => 4
  | .joy1 => 5

/-- DEC_STATE (10_state.md R26): 0 is IDLE, 1 is ASSEMBLING. -/
inductive DecState where
  | idle | assembling
  deriving DecidableEq, Repr, Inhabited

/-- An entry of HDR_TABLE: the kind and the length, header byte included (R85). -/
structure HdrEntry where
  kind : Kind
  len : BitVec 4
  deriving DecidableEq, Repr

/-- The parameters that a model takes as arguments (R6, R85) and that do not change at run time
(70_reset_and_hazards.md R254). NTHREADS is the number of threads a state holds. -/
structure Params where
  /-- RING_LOG2, log2 of the ring capacity. -/
  ringLog2 : Nat
  /-- POLL_TIMEOUT, failed transmit-ready checks per byte after which `send_polling` fails. -/
  pollTimeout : Nat
  /-- ADDR_W, the width of a caller-memory address. -/
  addrW : Nat
  /-- GEN_HANDLE, the device handle passed to the generic input sink. -/
  genHandle : Nat
  /-- HDR_TABLE: header values with an entry; a header value not listed is UNKNOWN. -/
  hdrTable : List (Byte × HdrEntry)
  /-- MOD_LSHIFT_SC -/
  lshiftSc : ScanCode
  /-- MOD_RSHIFT_SC -/
  rshiftSc : ScanCode
  /-- MOD_CTRL_SC -/
  ctrlSc : ScanCode
  /-- MOD_ALT_SC -/
  altSc : ScanCode
  /-- MOD_CAPS_SC -/
  capsSc : ScanCode
  /-- BUF_t: the command-buffer addresses that the words SEND and PSEND use (R92). -/
  bufs : List Nat
  deriving DecidableEq, Repr

namespace Params

/-- RING_SIZE = 2^RING_LOG2 (R6). -/
def ringSize (p : Params) : Nat := 2 ^ p.ringLog2

/-- The five modifier scan codes. -/
def modCodes (p : Params) : List ScanCode := [p.lshiftSc, p.rshiftSc, p.ctrlSc, p.altSc, p.capsSc]

/-- The bounds on the parameters. R6 gives 1 <= RING_LOG2 <= IDX_W-1, POLL_TIMEOUT >= 1, ADDR_W >= 1 and
modifier codes pairwise distinct and below 0x76. The package lengths of HDR_TABLE are 2 to 8, the range
R44 gives `len` and the source gives a length; that a table may hold 4 or 5, which R27, R39.2 and R87 do
not list, is the model's (DESIGN CHOICE; log 25). -/
abbrev wf (p : Params) : Prop :=
  1 ≤ p.ringLog2 ∧ p.ringLog2 ≤ 31 ∧ 1 ≤ p.pollTimeout ∧ 1 ≤ p.addrW ∧
    p.modCodes.Nodup ∧ (∀ c ∈ p.modCodes, c.toNat < 0x76) ∧
    (∀ e ∈ p.hdrTable, 2 ≤ e.2.len.toNat ∧ e.2.len.toNat ≤ 8)

end Params

/-! The free values (log 6, log 7, log 10). Each has no body: nothing evaluates it, and no proof can
see a value of it. The first argument is the count of draws made before. -/

/-- TIME at an event record for which the environment has supplied none: "drawn freely" (R42). -/
opaque Config.timestamp : Nat → Nat

/-- What RESET leaves in a ring slot: "unspecified" (R250). Arguments: the draw, the slot. -/
opaque Config.resetRing : Nat → Nat → Byte

/-- What RESET leaves in a package byte: "unspecified" (R250). Arguments: the draw, the index. -/
opaque Config.resetPkg : Nat → Nat → Byte

/-- What RESET leaves in PKG_KIND: "unspecified" (R250). -/
opaque Config.resetPkgKind : Nat → Kind

/-- What RESET leaves in PKG_LEN: "unspecified" (R250). -/
opaque Config.resetPkgLen : Nat → BitVec 4

/-- What RESET leaves in TX_CURSOR, before it is cut to ADDR_W bits: "unspecified" (R250). -/
opaque Config.resetTxCursor : Nat → Nat

/-- What RESET leaves in TH_BASE, before it is cut to ADDR_W bits: "unspecified" (R250).
Arguments: the draw, the thread. -/
opaque Config.resetThBase : Nat → Nat → Nat

/-- Which of the threads that meet a fault condition `some u` the fault's info names (R203, R250). -/
opaque Config.faultPick : Nat → Nat

/-- The info of F_IRQ_OFF_BUSY when TX_BUSY = 1 and no thread is in ACQ: R203 names no thread. -/
opaque Config.faultInfo : Nat → Nat

end Sys2Proof
end

