-- ==== Sys2Proof/Syntax.lean ====
section
/-! DEFINITION. The operations of KBDCORE as syntax: one constructor per row of spec/opcode_table.json,
ten received-byte classes (30_encoding.md R80 to R88) and seventeen stimulus words (R92). -/

namespace Sys2Proof

/-- One row of the opcode table each. The header rows carry the operands that R84 assembles for
DEC_HEADER: the header byte and the length HDR_TABLE gives it. -/
inductive Instr where
  /-- HDR_MEM: a header of kind MEM read in IDLE (R122). -/
  | hdrMem (h : Byte) (len : BitVec 4)
  /-- HDR_AMS: a header of kind AMS read in IDLE (R122). -/
  | hdrAms (h : Byte) (len : BitVec 4)
  /-- HDR_RMS: a header of kind RMS read in IDLE (R122). -/
  | hdrRms (h : Byte) (len : BitVec 4)
  /-- HDR_CLK: a header of kind CLK read in IDLE (R122). -/
  | hdrClk (h : Byte) (len : BitVec 4)
  /-- HDR_UNKNOWN: a header value without a table entry, read in IDLE (R125). -/
  | hdrUnknown (h : Byte)
  /-- HDR_JOY0: a header of kind JOY0 read in IDLE (R122). -/
  | hdrJoy0 (h : Byte) (len : BitVec 4)
  /-- HDR_JOY1: a header of kind JOY1 read in IDLE (R122). -/
  | hdrJoy1 (h : Byte) (len : BitVec 4)
  /-- KEY_PRESS: a key-transition code with bit 7 clear, read in IDLE (R121). -/
  | keyPress (sc : ScanCode)
  /-- KEY_RELEASE: a key-transition code with bit 7 set, read in IDLE (R121). -/
  | keyRelease (sc : ScanCode)
  /-- PAYLOAD: any byte read in ASSEMBLING (R123). -/
  | payload (data : Byte)
  /-- RX b: LINK delivers a good byte (R40). -/
  | rx (b : Byte)
  /-- RXE b: LINK delivers a byte flagged bad (R40). -/
  | rxe (b : Byte)
  /-- IRQRX: the receive step on the head pair (R100, R101). -/
  | irqrx
  /-- SOFTB: the drain snapshot (R105). -/
  | softb
  /-- SOFTN: drain one byte, decode and dispatch it (R106). -/
  | softn
  /-- CRW r, v: control-register write by T0 (R200). -/
  | crw (r : BitVec 2) (v : BitVec 6)
  /-- CRR r: control-register read by T0 (R204). -/
  | crr (r : BitVec 2)
  /-- SEND t, len: the call `send(BUF_t, len)` of thread t (R170). -/
  | send (t : BitVec 4) (len : BitVec 4)
  /-- ACQ t: thread t acquires the channel (R172). -/
  | acq (t : BitVec 4)
  /-- SRET t: thread t returns from `send` (R174). -/
  | sret (t : BitVec 4)
  /-- TXI: the transmit step of IRQ (R176). -/
  | txi
  /-- LRDY: LINK_TX_DONE, TXRDY becomes 1 (R41). -/
  | lrdy
  /-- PSEND t, len: the call `send_polling(BUF_t, len)` of thread t (R180). -/
  | psend (t : BitVec 4) (len : BitVec 4)
  /-- PSTEP t: one polled-send step of thread t (R181). -/
  | pstep (t : BitVec 4)
  /-- REEN: device re-enable by T0 (R205). -/
  | reen
  /-- RESET: reset by T0 (R250). -/
  | reset
  /-- EVQF v: the environment sets the level EVQ_FULL (R42). -/
  | evqf (v : Bool)
  deriving DecidableEq, Repr

end Sys2Proof
end

