-- ==== Sys2Proof/Decode.lean ====
section
/-! DEFINITION. Classifying a received byte (30_encoding.md R80 to R88, R96), decoding a stimulus word
(R91, R92, R95), and the encoder written from the same tables. -/

namespace Sys2Proof

/-! ### Received bytes -/

/-- HDR_MIN (R6, D7): in IDLE a byte is a header exactly when it is at least this. -/
def hdrMin : Byte := 0xF6#8

/-- `is_header(b)` (R13). -/
def isHeader (b : Byte) : Bool := hdrMin.ule b

/-- `scancode(b)` = b[6:0] (R13). -/
def scancode (b : Byte) : ScanCode := b.extractLsb' 0 7

/-- `released(b)`: bit KEY_RELEASE_BIT = 7 is set (R13). -/
def released (b : Byte) : Bool := b.getLsbD 7

/-- HDR_TABLE(b); `none` is UNKNOWN (R85). -/
def hdrLookup (p : Params) (b : Byte) : Option HdrEntry := p.hdrTable.lookup b

/-- The default HDR_TABLE (R85): 0xFD has no entry. -/
def defaultHdrTable : List (Byte × HdrEntry) :=
  [(0xF6#8, ⟨.mem, 8⟩), (0xF7#8, ⟨.ams, 6⟩), (0xF8#8, ⟨.rms, 3⟩), (0xF9#8, ⟨.rms, 3⟩),
   (0xFA#8, ⟨.rms, 3⟩), (0xFB#8, ⟨.rms, 3⟩), (0xFC#8, ⟨.clk, 7⟩), (0xFE#8, ⟨.joy0, 2⟩),
   (0xFF#8, ⟨.joy1, 2⟩)]

/-- What `classify` answers (R84). -/
inductive ByteClass where
  | payload
  | hdrUnknown
  | hdrKnown (kind : Kind) (len : BitVec 4)
  | keyPress (sc : ScanCode)
  | keyRelease (sc : ScanCode)
  deriving DecidableEq, Repr

/-- The classification function DEC applies (R84). -/
def classify (p : Params) (st : DecState) (b : Byte) : ByteClass :=
  match st with
  | .assembling => .payload
  | .idle =>
    if isHeader b then
      match hdrLookup p b with
      | none => .hdrUnknown
      | some e => .hdrKnown e.kind e.len
    else if released b then .keyRelease (scancode b)
    else .keyPress (scancode b)

/-- The byte-class row that a classified byte is. -/
def classInstr (b : Byte) : ByteClass → Instr
  | .payload => .payload b
  | .hdrUnknown => .hdrUnknown b
  | .hdrKnown .mem len => .hdrMem b len
  | .hdrKnown .ams len => .hdrAms b len
  | .hdrKnown .rms len => .hdrRms b len
  | .hdrKnown .clk len => .hdrClk b len
  | .hdrKnown .joy0 len => .hdrJoy0 b len
  | .hdrKnown .joy1 len => .hdrJoy1 b len
  | .keyPress sc => .keyPress sc
  | .keyRelease sc => .keyRelease sc

/-- Decoding a received byte in a decoder state: total, no byte is illegal (R88). -/
def decodeByte (p : Params) (st : DecState) (b : Byte) : Instr := classInstr b (classify p st b)

/-! ### Stimulus words -/

/-- `op = w[15:8]` (R91). -/
def stimOp (w : StimWord) : Byte := w.extractLsb' 8 8

/-- `imm = w[7:0]` (R91). -/
def stimImm (w : StimWord) : Byte := w.extractLsb' 0 8

/-- imm[7:4] (R92). -/
def immHi (i : Byte) : BitVec 4 := i.extractLsb' 4 4

/-- imm[3:0] (R92). -/
def immLo (i : Byte) : BitVec 4 := i.extractLsb' 0 4

/-- imm[7:6], the register number of CRW and CRR (R92). -/
def immReg (i : Byte) : BitVec 2 := i.extractLsb' 6 2

/-- imm[5:0], the value of CRW (R92). -/
def immVal (i : Byte) : BitVec 6 := i.extractLsb' 0 6

/-- Answer `i` only when the bits R92 gives as 0 are 0 (R95). -/
def ifZero {n : Nat} (reserved : BitVec n) (i : Instr) : Option Instr :=
  if reserved = 0 then some i else none

/-- The operation of a word by its opcode; `none` for the opcodes 0x00 and 0x12 to 0xFF and for
non-zero reserved bits (R92, R95). The thread range is checked in `decodeWord`. -/
def decodeOp (op imm : Byte) : Option Instr :=
  match op.toNat with
  | 0x01 => some (.rx imm)
  | 0x02 => some (.rxe imm)
  | 0x03 => ifZero imm .irqrx
  | 0x04 => ifZero imm .softb
  | 0x05 => ifZero imm .softn
  | 0x06 => some (.crw (immReg imm) (immVal imm))
  | 0x07 => ifZero (immVal imm) (.crr (immReg imm))
  | 0x08 => some (.send (immHi imm) (immLo imm))
  | 0x09 => ifZero (immLo imm) (.acq (immHi imm))
  | 0x0A => ifZero (immLo imm) (.sret (immHi imm))
  | 0x0B => ifZero imm .txi
  | 0x0C => ifZero imm .lrdy
  | 0x0D => some (.psend (immHi imm) (immLo imm))
  | 0x0E => ifZero (immLo imm) (.pstep (immHi imm))
  | 0x0F => ifZero imm .reen
  | 0x10 => ifZero imm .reset
  | 0x11 => ifZero (imm.extractLsb' 1 7) (.evqf (imm.getLsbD 0))
  | _ => none

/-- The thread a word names, if it names one. -/
def namedThread : Instr → Option (BitVec 4)
  | .send t _ => some t
  | .acq t => some t
  | .sret t => some t
  | .psend t _ => some t
  | .pstep t => some t
  | _ => none

/-- `t < NTHREADS` for the words that name a thread (R95). -/
def threadOk (nthreads : Nat) (i : Instr) : Bool :=
  match namedThread i with
  | some t => decide (t.toNat < nthreads)
  | none => true

/-- The stimulus decoder, total on 16-bit words (R95); `none` is REFUSED. -/
def decodeWord (nthreads : Nat) (w : StimWord) : Option Instr :=
  match decodeOp (stimOp w) (stimImm w) with
  | some i => if threadOk nthreads i then some i else none
  | none => none

/-! ### Both encodings together -/

/-- An encoded operation: a received byte (format rx_byte) or a stimulus word (format stim16). -/
inductive Code where
  | byte (b : Byte)
  | word (w : StimWord)
  deriving DecidableEq, Repr

/-- Decode a byte in the decoder state `st`, or a stimulus word. -/
def decode (p : Params) (nthreads : Nat) (st : DecState) : Code → Option Instr
  | .byte b => some (decodeByte p st b)
  | .word w => decodeWord nthreads w

/-- `op << 8 | imm` (R91). -/
def stimWord (op imm : Byte) : StimWord := op ++ imm

/-- The byte or word of an operation (R81 to R83, R92). -/
def encode : Instr → Code
  | .hdrMem h _ => .byte h
  | .hdrAms h _ => .byte h
  | .hdrRms h _ => .byte h
  | .hdrClk h _ => .byte h
  | .hdrUnknown h => .byte h
  | .hdrJoy0 h _ => .byte h
  | .hdrJoy1 h _ => .byte h
  | .keyPress sc => .byte (0#1 ++ sc)
  | .keyRelease sc => .byte (1#1 ++ sc)
  | .payload d => .byte d
  | .rx b => .word (stimWord 0x01#8 b)
  | .rxe b => .word (stimWord 0x02#8 b)
  | .irqrx => .word (stimWord 0x03#8 0#8)
  | .softb => .word (stimWord 0x04#8 0#8)
  | .softn => .word (stimWord 0x05#8 0#8)
  | .crw r v => .word (stimWord 0x06#8 (r ++ v))
  | .crr r => .word (stimWord 0x07#8 (r ++ 0#6))
  | .send t len => .word (stimWord 0x08#8 (t ++ len))
  | .acq t => .word (stimWord 0x09#8 (t ++ 0#4))
  | .sret t => .word (stimWord 0x0A#8 (t ++ 0#4))
  | .txi => .word (stimWord 0x0B#8 0#8)
  | .lrdy => .word (stimWord 0x0C#8 0#8)
  | .psend t len => .word (stimWord 0x0D#8 (t ++ len))
  | .pstep t => .word (stimWord 0x0E#8 (t ++ 0#4))
  | .reen => .word (stimWord 0x0F#8 0#8)
  | .reset => .word (stimWord 0x10#8 0#8)
  | .evqf v => .word (stimWord 0x11#8 (0#7 ++ BitVec.ofBool v))

/-! ### The byte-class rows of the opcode table (R96) -/

/-- A row of format rx_byte: where it applies, how it matches, and which instruction it is. -/
structure ByteRow where
  state : DecState
  priority : Nat
  mask : Byte
  value : Byte
  lo : Byte
  hi : Byte
  mnemonic : String
  deriving DecidableEq, Repr

/-- The ten rows of format rx_byte, with the table's state, priority, mask, match and range
(no range is 0x00 to 0xFF). -/
def byteRows : List ByteRow :=
  [⟨.idle, 0, 0xFF#8, 0xF6#8, 0x00#8, 0xFF#8, "HDR_MEM"⟩,
   ⟨.idle, 0, 0xFF#8, 0xF7#8, 0x00#8, 0xFF#8, "HDR_AMS"⟩,
   ⟨.idle, 0, 0xFC#8, 0xF8#8, 0x00#8, 0xFF#8, "HDR_RMS"⟩,
   ⟨.idle, 0, 0xFF#8, 0xFC#8, 0x00#8, 0xFF#8, "HDR_CLK"⟩,
   ⟨.idle, 0, 0xFF#8, 0xFD#8, 0x00#8, 0xFF#8, "HDR_UNKNOWN"⟩,
   ⟨.idle, 0, 0xFF#8, 0xFE#8, 0x00#8, 0xFF#8, "HDR_JOY0"⟩,
   ⟨.idle, 0, 0xFF#8, 0xFF#8, 0x00#8, 0xFF#8, "HDR_JOY1"⟩,
   ⟨.idle, 1, 0x80#8, 0x00#8, 0x00#8, 0x7F#8, "KEY_PRESS"⟩,
   ⟨.idle, 1, 0x80#8, 0x80#8, 0x80#8, 0xF5#8, "KEY_RELEASE"⟩,
   ⟨.assembling, 0, 0x00#8, 0x00#8, 0x00#8, 0xFF#8, "PAYLOAD"⟩]

/-- Whether a row matches a byte read in a decoder state (R96). -/
def ByteRow.matchesByte (r : ByteRow) (st : DecState) (b : Byte) : Bool :=
  r.state == st && (b &&& r.mask) == r.value && r.lo.ule b && b.ule r.hi

/-- The matching rows of lowest priority number (R96). -/
def rowsFor (st : DecState) (b : Byte) : List ByteRow :=
  let rows := byteRows.filter fun r => r.matchesByte st b
  rows.filter fun r => rows.all fun q => decide (r.priority ≤ q.priority)

/-- The opcode table's mnemonic of an instruction. -/
def mnemonic : Instr → String
  | .hdrMem _ _ => "HDR_MEM"
  | .hdrAms _ _ => "HDR_AMS"
  | .hdrRms _ _ => "HDR_RMS"
  | .hdrClk _ _ => "HDR_CLK"
  | .hdrUnknown _ => "HDR_UNKNOWN"
  | .hdrJoy0 _ _ => "HDR_JOY0"
  | .hdrJoy1 _ _ => "HDR_JOY1"
  | .keyPress _ => "KEY_PRESS"
  | .keyRelease _ => "KEY_RELEASE"
  | .payload _ => "PAYLOAD"
  | .rx _ => "RX"
  | .rxe _ => "RXE"
  | .irqrx => "IRQRX"
  | .softb => "SOFTB"
  | .softn => "SOFTN"
  | .crw _ _ => "CRW"
  | .crr _ => "CRR"
  | .send _ _ => "SEND"
  | .acq _ => "ACQ"
  | .sret _ => "SRET"
  | .txi => "TXI"
  | .lrdy => "LRDY"
  | .psend _ _ => "PSEND"
  | .pstep _ => "PSTEP"
  | .reen => "REEN"
  | .reset => "RESET"
  | .evqf _ => "EVQF"

/-! ### The table-word decoder -/

/-- The parameters the table-word decoder reads header bytes with: the spec's defaults (R6, R85).
The other fields play no part in decoding. -/
def tableParams : Params where
  ringLog2 := 8
  pollTimeout := 2
  addrW := 32
  genHandle := 0
  hdrTable := defaultHdrTable
  lshiftSc := 0x2A#7
  rshiftSc := 0x36#7
  ctrlSc := 0x1D#7
  altSc := 0x38#7
  capsSc := 0x3A#7
  bufs := []

/-- The instruction the decoder reads from the bits `w` of a row of `nbits` bits: a received byte for
8 bits, read in the decoder state after reset, IDLE (log 14), and a stimulus word for 16 bits, with
the sixteen threads the words can name. -/
def decodeTableWord (nbits w : Nat) : Option Instr :=
  match nbits with
  | 8 => decode tableParams 16 .idle (.byte (BitVec.ofNat 8 w))
  | 16 => decode tableParams 16 .idle (.word (BitVec.ofNat 16 w))
  | _ => none

end Sys2Proof
end

