-- ==== Sys2Proof/Machine/State.lean ====
section
/-! DEFINITION. The state of KBDCORE (10_state.md R20 to R47), as plain data, with the outcomes a step
can end in beside a next state, and the state after reset. -/

namespace Sys2Proof.Machine

/-! ### Faults -/

/-- The model-fault codes (60_exceptions.md R222). `sendContext` is raised by no operation. -/
inductive FaultCode where
  | sendZeroLen | cmdRange | sendIrqOff | sendContext | pollIrqOn | pollBusy
  | modeReserved | crWrite | irqOffBusy | irqOnPoll | resetBusy
  deriving DecidableEq, Repr

/-- The numbers of R222. -/
def FaultCode.code : FaultCode → Nat
  | .sendZeroLen => 1
  | .cmdRange => 2
  | .sendIrqOff => 3
  | .sendContext => 4
  | .pollIrqOn => 5
  | .pollBusy => 6
  | .modeReserved => 7
  | .crWrite => 8
  | .irqOffBusy => 9
  | .irqOnPoll => 10
  | .resetBusy => 11

/-- What `raise Fault(code, info)` records (R11, R222): the info is a thread or register number. -/
structure FaultRecord where
  code : FaultCode
  info : Nat
  deriving DecidableEq, Repr

/-! ### Output transactions (10_state.md R44) -/

/-- A key transition: DOWN or UP, KEY_DOWN or KEY_UP (R44, R84). -/
inductive Transition where
  | down | up
  deriving DecidableEq, Repr

/-- The `value` of an EV transaction: DOWN = 1, UP = 0 (R44). -/
def Transition.value : Transition → BitVec 1
  | .down => 1
  | .up => 0

/-- The diagnostic codes (60_exceptions.md R221). -/
inductive DiagCode where
  | unknownHeader | evqFull
  deriving DecidableEq, Repr

/-- The numbers of R221. -/
def DiagCode.code : DiagCode → Nat
  | .unknownHeader => 1
  | .evqFull => 2

/-- Which operation a RET transaction answers (R44). -/
inductive RetOp where
  | send | sendPoll | crRead
  deriving DecidableEq, Repr

/-- The result of a RET transaction (R44). -/
inductive RetResult where
  | ok
  | fail
  | value (v : Byte)
  deriving DecidableEq, Repr

/-- One transaction on an output port (R10, R44). -/
inductive Txn where
  | linkTx (b : Byte)
  | ev (id : ScanCode) (value : BitVec 1) (time : Nat)
  | gen (handle : Nat) (kind : Transition) (sc : ScanCode)
  | term (code : Byte)
  | ptr (kind : Kind) (len : BitVec 4) (bytes : List Byte)
  | diag (code : DiagCode) (data : Byte)
  | ret (t : Nat) (op : RetOp) (result : RetResult)
  deriving DecidableEq, Repr

/-! ### The schedule -/

/-- One entry of the schedule: which agent steps next, and with what (R4, R66, R70, R230; log 1). A
stimulus word is one entry (R91). The others are the same operations with operands or threads that
the words cannot name (R170, R180, R200, R204, R205, R235, R250; log 15), the environment's own
actions (R42, R262), and the requests that the spec refuses by name (R3, R209). -/
inductive Action where
  /-- A stimulus word (R91). -/
  | word (w : StimWord)
  /-- CRWRITE(r, v) by thread t (R200). -/
  | crWrite (t r v : Nat)
  /-- CRREAD(r) by thread t (R204). -/
  | crRead (t r : Nat)
  /-- REENABLE by thread t (R205). -/
  | reenable (t : Nat)
  /-- RESET by thread t (R250). -/
  | reset (t : Nat)
  /-- `send(base, len)` by thread t (R170). -/
  | send (t base : Nat) (len : Count)
  /-- SEND_ACQUIRE by thread t (R172). -/
  | acquire (t : Nat)
  /-- SEND_RETURN by thread t (R174). -/
  | sendReturn (t : Nat)
  /-- `send_polling(base, len)` by thread t (R180). -/
  | sendPolling (t base : Nat) (len : Count)
  /-- POLL_STEP by thread t (R181). -/
  | pollStep (t : Nat)
  /-- The environment supplies the TIME of the next event record (R42, R235). -/
  | supplyTime (time : Nat)
  /-- A caller stores a byte in its own memory (R43, R262). -/
  | callerStore (addr : Nat) (b : Byte)
  /-- A bell request (R3, R209): refused by name. -/
  | bell
  /-- The console-mode read-a-key path (R209): refused by name. -/
  | consoleReadKey
  /-- A register access by address (R3): refused by name. -/
  | registerAccess (addr : Nat)
  deriving DecidableEq, Repr

/-! ### The state -/

/-- TH_STATE[t] (10_state.md R37). -/
inductive ThState where
  | idle | acq | wait | poll
  deriving DecidableEq, Repr

/-- The private registers of one caller thread (R37). -/
structure Thread where
  /-- TH_STATE[t] -/
  state : ThState
  /-- TH_BASE[t], ADDR_W bits (log 12) -/
  base : Nat
  /-- TH_LEN[t] -/
  len : Count
  /-- TH_I[t] -/
  idx : Count
  /-- TH_SPIN[t] -/
  spin : Count
  deriving DecidableEq, Repr

/-- The state of KBDCORE with the environment state that a model holds beside it (R20). -/
structure State where
  /-- The parameters (R6), fixed at run time (R254; log 3). -/
  cfg : Params
  /-- PUT (R21) -/
  put : Count
  /-- GET (R22) -/
  get : Count
  /-- RING (R23): RING_SIZE bytes -/
  ring : List Byte
  /-- SOFT_PEND (R24) -/
  softPend : Bool
  /-- DR_ACTIVE (R25) -/
  drActive : Bool
  /-- DR_N (R25) -/
  drN : Count
  /-- DEC_STATE (R26) -/
  decState : DecState
  /-- PKG_KIND (R27) -/
  pkgKind : Kind
  /-- PKG_LEN (R27) -/
  pkgLen : BitVec 4
  /-- PKG_IDX (R28) -/
  pkgIdx : BitVec 4
  /-- PKG (R29) -/
  pkg : Vector Byte 8
  /-- MODS (R30), CR3 -/
  mods : BitVec 5
  /-- MODE (R31), CR0 -/
  mode : BitVec 2
  /-- GEN_PRESENT (R32), CR1 -/
  genPresent : Bool
  /-- IRQ_EN (R33), CR2 -/
  irqEn : Bool
  /-- TX_BUSY (R34) -/
  txBusy : Bool
  /-- TX_CURSOR (R35), ADDR_W bits (log 12) -/
  txCursor : Nat
  /-- TX_REM (R36) -/
  txRem : Count
  /-- TH_*[t] (R37), one entry a thread: NTHREADS is the length -/
  threads : List Thread
  /-- FAULT (R38) -/
  fault : Option FaultRecord
  /-- LINK_RXQ (R40): (b, err) pairs, oldest first -/
  linkRxq : List (Byte × Bool)
  /-- TXRDY (R41) -/
  txrdy : Bool
  /-- EVQ_FULL (R42) -/
  evqFull : Bool
  /-- Caller memory (R43): (address, byte) pairs in the canonical form of `Memory.wf` (log 11) -/
  mem : List Host.Cell
  /-- The event history, oldest first (R10) -/
  history : List Txn
  /-- MODEL: the schedule (log 1) -/
  sched : List Action
  /-- MODEL: TIME supplied by the environment for the next event record (log 7) -/
  timeIn : Option Nat
  /-- MODEL: how many free values have been drawn (log 6, log 7) -/
  draws : Nat
  deriving DecidableEq, Repr

/-! ### The other outcomes of a step -/

/-- Why the machine stops with a fault. -/
inductive Fault where
  /-- Raised by `step` and by every meaning in the faulted state: FAULT is not NONE, so no agent takes
  a step (00_scope.md R11, 10_state.md R38, the outcome FAULT(code) of R93). Safe: the spec halts. -/
  | halted (r : FaultRecord)
  deriving DecidableEq, Repr

/-- Why a step or a request has no next state. -/
inductive Refusal where
  /-- Raised by `exec` for an instruction without a meaning. Safe. No instruction is left so. -/
  | notModelled (mnemonic : String)
  /-- BLOCKED: raised by a meaning whose guard is false: the agent has no such step (R12, R93). Safe. -/
  | blocked
  /-- REFUSED: raised by `step` for a stimulus word that the stimulus decoder refuses (R95). Safe. -/
  | illFormedWord (w : StimWord)
  /-- REFUSED: raised by a meaning that names a thread t >= NTHREADS (R95). Safe. -/
  | noSuchThread
  /-- Raised by `step` when the schedule is empty: nothing is scheduled (R93; log 1). Safe. -/
  | scheduleEnd
  /-- Raised by `perform` for a store into a buffer that a call in progress holds: a breach of the
  caller's duty, for which no rule speaks (R262, U22; log 11). Safe. -/
  | callerBufferHeld
  /-- Raised by `perform` for a store past 2^ADDR_W: no such address exists (R60; log 11). Safe. -/
  | noSuchAddress
  /-- Raised by `perform` for a bell request (R3, R209). Safe. -/
  | bell
  /-- Raised by `perform` for a console read (R209). Safe. -/
  | consoleReadKey
  /-- Raised by `perform` for a register access by address (R3). Safe. -/
  | registerAccess
  deriving DecidableEq, Repr

/-! ### Reset -/

/-- A thread after reset (R47). TH_BASE is "unspecified": `base` names it (log 5, log 6). -/
def Thread.afterReset (base : Nat) : Thread where
  state := .idle
  base := base
  len := 0
  idx := 0
  spin := 0

/-- The power-on state (70_reset_and_hazards.md R251, 10_state.md R47) for any parameters, number of
threads and level of TXRDY and EVQ_FULL (R251; log 4). The registers R47 calls unspecified hold zero
(log 5). -/
def State.powerOn (p : Params) (nthreads : Nat) (txrdy evqFull : Bool) : State where
  cfg := p
  put := 0
  get := 0
  ring := List.replicate p.ringSize 0
  softPend := false
  drActive := false
  drN := 0
  decState := .idle
  pkgKind := .mem
  pkgLen := 0
  pkgIdx := 0
  pkg := Vector.replicate 8 0
  mods := 0
  mode := 0
  genPresent := false
  irqEn := false
  txBusy := false
  txCursor := 0
  txRem := 0
  threads := List.replicate nthreads (Thread.afterReset 0)
  fault := none
  linkRxq := []
  txrdy := txrdy
  evqFull := evqFull
  mem := []
  history := []
  sched := []
  timeIn := none
  draws := 0

/-- The parameters of `State.reset` (log 3, log 13): RING_LOG2 = 8 and ADDR_W = 32 as the spec suggests,
the spec's defaults for HDR_TABLE and the modifier codes, POLL_TIMEOUT = 2 and GEN_HANDLE = 0. -/
def resetParams : Params where
  ringLog2 := 8
  pollTimeout := 2
  addrW := 32
  genHandle := 0
  hdrTable := defaultHdrTable
  lshiftSc := 0x2A#7
  rshiftSc := 0x36#7
  ctrlSc := 0x1D#7
  altSc := 0x38#7
  capsSc := 0x3A#7
  bufs := []

/-- The machine right after reset (R251), with the sixteen threads the stimulus language can name, and
TXRDY = EVQ_FULL = 0 (log 3, log 4). -/
def State.reset : State := State.powerOn resetParams 16 false false

end Sys2Proof.Machine
end

