-- ==== Sys2Proof/Machine/Ops.lean ====
section
/-! DEFINITION. The shared operations: guards and outcomes (00_scope.md R11, R12), raising a model
fault, the output ports (R10, R41, R44), the ring (20_memory.md R61), the package buffer (R29), caller
memory (R9, R43), and the registers of the caller threads (R37). -/

namespace Sys2Proof.Machine

/-- The outcome of a step of KBDCORE. -/
abbrev Out := Host.Outcome State Fault Refusal

/-! ### Guards and faults -/

/-- In the faulted state no agent takes a step (R11, R38). -/
def whenRunning (s : State) (k : Out) : Out :=
  match s.fault with
  | some r => .fault (.halted r)
  | none => k

/-- `when <cond>: <body>` (R12): with a false guard the agent has no such step, BLOCKED (R93). -/
def whenEnabled (guard : Bool) (k : Out) : Out :=
  if guard then k else .refused .blocked

/-- TAKING AN EXCEPTION: `raise Fault(code, info)` (R11, R38, R232). FAULT takes the code, none of the
step's writes takes effect, no status is saved, and no handler is entered. Every later step answers
`Fault.halted` (`whenRunning`), since the faulted state is never cleared: there is no return from it
(R233; log 8). -/
def raiseFault (c : FaultCode) (info : Nat) (s : State) : Out :=
  .next { s with fault := some ⟨c, info⟩ }

/-- The registers of thread t, if t < NTHREADS; a thread that does not exist is REFUSED (R95). -/
def withThread (t : Nat) (s : State) (k : Thread → Out) : Out :=
  match s.threads[t]? with
  | some th => k th
  | none => .refused .noSuchThread

/-- A step of a caller thread t that is in TH_STATE `st` (R12, R37). -/
def threadStep (t : Nat) (st : ThState) (s : State) (k : Thread → Out) : Out :=
  whenRunning s (withThread t s fun th => whenEnabled (th.state == st) (k th))

/-! ### Output ports -/

/-- `emit PORT(args)`: append the transaction to the event history (R10). -/
def State.emit (x : Txn) (s : State) : State := { s with history := s.history ++ [x] }

/-- `emit LINK_TX(b)`: TXRDY becomes 0 in the same step (R41). -/
def State.linkTx (b : Byte) (s : State) : State :=
  { s with history := s.history ++ [.linkTx b], txrdy := false }

/-- The TIME of an event record: what the environment has supplied, else a free value (R42; log 7). -/
def State.timeNow (s : State) : Nat := s.timeIn.getD (Config.timestamp s.draws)

/-- `emit EV(id, value, TIME)`: the TIME is drawn afresh for each event record (R42, R141). -/
def State.emitEvent (id : ScanCode) (value : BitVec 1) (s : State) : State :=
  { s with history := s.history ++ [.ev id value s.timeNow], timeIn := none, draws := s.draws + 1 }

/-! ### The ring -/

/-- The slot of a ring index: `i & RING_MASK`, which is i[RING_LOG2-1:0] (R61). -/
def ringSlot (p : Params) (i : Count) : Nat := i.toNat % p.ringSize

/-- RING_SIZE as a value of the index width. -/
def ringSizeW (p : Params) : Count := BitVec.ofNat 32 p.ringSize

/-- `RING[i & RING_MASK]` (R61). -/
def State.ringRead (i : Count) (s : State) : Byte := s.ring.getD (ringSlot s.cfg i) 0

/-- `RING[i & RING_MASK] <- b` (R61). -/
def State.ringWrite (i : Count) (b : Byte) (s : State) : State :=
  { s with ring := s.ring.set (ringSlot s.cfg i) b }

/-! ### The package buffer -/

/-- The package index, 3 bits wide (R60), of a value of PKG_IDX (log 19). -/
def pkgSlot (i : BitVec 4) : Nat := i.toNat % 8

theorem pkgSlot_lt (i : BitVec 4) : pkgSlot i < 8 := Nat.mod_lt _ (by decide)

/-- `PKG[i]` -/
def State.pkgRead (i : BitVec 4) (s : State) : Byte := s.pkg[pkgSlot i]'(pkgSlot_lt i)

/-- `PKG[i] <- b` -/
def State.pkgWrite (i : BitVec 4) (b : Byte) (s : State) : State :=
  { s with pkg := s.pkg.set (pkgSlot i) b (pkgSlot_lt i) }

/-- PKG[0 .. len-1] (R124). -/
def State.pkgBytes (len : BitVec 4) (s : State) : List Byte :=
  (List.range len.toNat).map fun i => s.pkgRead (BitVec.ofNat 4 i)

/-! ### Caller memory -/

/-- What a byte of caller memory that nothing lists reads as (DESIGN CHOICE, unsafe; log 11). -/
def Memory.unlisted : Byte := 0

/-- The byte at an address. -/
def Memory.read : List Host.Cell → Nat → Byte
  | [], _ => Memory.unlisted
  | (k, v) :: rest, a => if k = a then v else Memory.read rest a

/-- Store a byte, keeping the canonical form. -/
def Memory.write : List Host.Cell → Nat → Byte → List Host.Cell
  | [], a, b => if b = Memory.unlisted then [] else [(a, b)]
  | (k, v) :: rest, a, b =>
    if a < k then
      if b = Memory.unlisted then (k, v) :: rest else (a, b) :: (k, v) :: rest
    else if a = k then
      if b = Memory.unlisted then rest else (a, b) :: rest
    else (k, v) :: Memory.write rest a b

/-- The canonical form: addresses strictly rising, no entry equal to what is read unlisted. -/
abbrev Memory.wf (m : List Host.Cell) : Prop :=
  m.Pairwise (fun x y => x.1 < y.1) ∧ ∀ c ∈ m, c.2 ≠ Memory.unlisted

/-- 2^ADDR_W, the size of the caller address space (R60). -/
def addrSpace (p : Params) : Nat := 2 ^ p.addrW

/-- Addition of ADDR_W-bit addresses, modulo 2^ADDR_W (R7; log 12). -/
def addrAdd (p : Params) (a n : Nat) : Nat := (a + n) % addrSpace p

/-- A value cut to ADDR_W bits. -/
def addrCut (p : Params) (a : Nat) : Nat := a % addrSpace p

/-- `MemRead(addr, 1)` (R9): no side effect (R65). -/
def State.memRead (addr : Nat) (s : State) : Byte := Memory.read s.mem (addrCut s.cfg addr)

/-! ### Caller threads -/

/-- NTHREADS (R6). -/
def State.nthreads (s : State) : Nat := s.threads.length

/-- Replace the registers of thread t. -/
def State.setThread (t : Nat) (th : Thread) (s : State) : State :=
  { s with threads := s.threads.set t th }

/-- Whether thread u exists and its TH_STATE meets `f`. -/
def State.threadIs (u : Nat) (f : ThState → Bool) (s : State) : Bool :=
  match s.threads[u]? with
  | some th => f th.state
  | none => false

/-- The threads whose number and TH_STATE meet `f`: the `u` of "some u has TH_STATE[u] ..." . -/
def State.threadsWith (f : Nat → ThState → Bool) (s : State) : List Nat :=
  (List.range s.threads.length).filter fun u => s.threadIs u (f u)

/-- The thread number a fault's info names when the rule says "some u" (R203, R250): any of the
threads that qualify, and any number where none does (log 10). -/
def State.pickThread (us : List Nat) (s : State) : Nat :=
  us.getD (Config.faultPick s.draws % us.length) (Config.faultInfo s.draws)

end Sys2Proof.Machine
end

