-- ==== Sys2Proof/Machine/Operands.lean ====
section
/-! DEFINITION. Operand forms: what a key-transition code carries (30_encoding.md R81, R84), a command
buffer (44_output.md R170), and a control register read as a byte (10_state.md R45). -/

namespace Sys2Proof.Machine

/-- DOWN when b[7] = 0 and UP when b[7] = 1 (R84). -/
def transitionOf (b : Byte) : Transition := if released b then .up else .down

/-- A 7-bit scan code as the 8-bit `data` of a diagnostic (R44, R142). -/
def scanData (b : Byte) : Byte := (scancode b).setWidth 8

/-- BUF_t: the address of thread t's command buffer, for the words SEND and PSEND (R92; log 3). -/
def State.bufOf (t : Nat) (s : State) : Nat := s.cfg.bufs.getD t 0

/-- `base + len > 2^ADDR_W`, computed without wrap (R170). -/
def pastTop (p : Params) (base : Nat) (len : Count) : Bool := decide (addrSpace p < base + len.toNat)

/-- The value of control register r, zero-extended to 8 bits (R45, R204); `none` for no register. -/
def State.crValue (r : Nat) (s : State) : Option Byte :=
  match r with
  | 0 => some (s.mode.setWidth 8)
  | 1 => some ((BitVec.ofBool s.genPresent).setWidth 8)
  | 2 => some ((BitVec.ofBool s.irqEn).setWidth 8)
  | 3 => some (s.mods.setWidth 8)
  | _ => none

/-- MODE = PASS (R31). -/
def modePass : BitVec 2 := 0

/-- MODE = EVENT (R31). -/
def modeEvent : BitVec 2 := 1

/-- MODE = POLL (R31). -/
def modePoll : BitVec 2 := 2

end Sys2Proof.Machine
end

