-- ==== Sys2Proof/Machine/Control.lean ====
section
/-! DEFINITION. The host control operations (45_control.md) and RESET (70_reset_and_hazards.md R250).
Each is one step of a caller thread in TH_STATE IDLE; the stimulus words issue them as T0. -/

namespace Sys2Proof.Machine

/-- MODE_WRITE(v) (R201). -/
def modeWrite (v : BitVec 2) (s : State) : Out := .next { s with mode := v }

/-- GEN_WRITE(v) (R202). -/
def genWrite (v : Bool) (s : State) : Out := .next { s with genPresent := v }

/-- IRQEN_WRITE(v) (R203). The faults' info is a thread u that meets the condition (log 10). -/
def irqEnWrite (v : Bool) (s : State) : Out :=
  let acquiring := s.threadsWith fun _ st => st == .acq
  let polling := s.threadsWith fun _ st => st == .poll
  if !v && (s.txBusy || acquiring != []) then raiseFault .irqOffBusy (s.pickThread acquiring) s
  else if v && polling != [] then raiseFault .irqOnPoll (s.pickThread polling) s
  else .next { s with irqEn := v }

/-- CRWRITE(r, v) by thread t (R200); the checks run in this order (R231). -/
def crWrite (t r v : Nat) (s : State) : Out :=
  threadStep t .idle s fun _ =>
    match r with
    | 0 =>
      if 3 < v then raiseFault .crWrite 0 s
      else if v = 3 then raiseFault .modeReserved 0 s
      else modeWrite (BitVec.ofNat 2 v) s
    | 1 => if 1 < v then raiseFault .crWrite 1 s else genWrite (v == 1) s
    | 2 => if 1 < v then raiseFault .crWrite 2 s else irqEnWrite (v == 1) s
    | r => raiseFault .crWrite r s

/-- CRW r, v: CRWRITE by T0 (R92, R200). -/
def execCrw (r : BitVec 2) (v : BitVec 6) (s : State) : Out := crWrite 0 r.toNat v.toNat s

/-- CRREAD(r) by thread t (R204). -/
def crRead (t r : Nat) (s : State) : Out :=
  threadStep t .idle s fun _ =>
    match s.crValue r with
    | some v => .next (s.emit (.ret t .crRead (.value v)))
    | none => raiseFault .crWrite r s

/-- CRR r: CRREAD by T0 (R92, R204). -/
def execCrr (r : BitVec 2) (s : State) : Out := crRead 0 r.toNat s

/-- REENABLE by thread t (R205): all five MODS flags are cleared. -/
def reenable (t : Nat) (s : State) : Out :=
  threadStep t .idle s fun _ => .next { s with mods := 0 }

/-- REEN: REENABLE by T0 (R92, R205). -/
def execReen (s : State) : Out := reenable 0 s

/-- The state after RESET (R250). What the rule calls unspecified takes free values (log 6); the
environment state, FAULT and the event history are unchanged. -/
def resetState (s : State) : State :=
  { s with
    put := 0, get := 0, softPend := false, drActive := false, drN := 0
    decState := .idle, pkgIdx := 0
    mods := 0, mode := modePass, genPresent := false, irqEn := false
    txBusy := false, txRem := 0
    threads := (List.range s.threads.length).map fun u =>
      Thread.afterReset (addrCut s.cfg (Config.resetThBase s.draws u))
    ring := (List.range s.cfg.ringSize).map (Config.resetRing s.draws)
    pkg := Vector.ofFn fun i => Config.resetPkg s.draws i.val
    pkgKind := Config.resetPkgKind s.draws
    pkgLen := Config.resetPkgLen s.draws
    txCursor := addrCut s.cfg (Config.resetTxCursor s.draws)
    draws := s.draws + 1 }

/-- RESET by thread t (R250): refused as a fault while another thread is in a call. -/
def resetBy (t : Nat) (s : State) : Out :=
  threadStep t .idle s fun _ =>
    let busy := s.threadsWith fun u st => u != t && st != .idle
    if busy != [] then raiseFault .resetBusy (s.pickThread busy) s
    else .next (resetState s)

/-- RESET by T0 (R92, R250). -/
def execReset (s : State) : Out := resetBy 0 s

end Sys2Proof.Machine
end

