-- ==== Sys2Proof/Machine/Link.lean ====
section
/-! DEFINITION. The steps of LINK and of the environment (10_state.md R40 to R42). -/

namespace Sys2Proof.Machine

/-- LINK appends a pair to LINK_RXQ (R40). -/
def linkDeliver (b : Byte) (err : Bool) (s : State) : State :=
  { s with linkRxq := s.linkRxq ++ [(b, err)] }

/-- RX b (R40): a good byte. -/
def execRx (b : Byte) (s : State) : Out := whenRunning s (.next (linkDeliver b false s))

/-- RXE b (R40): a byte flagged "parity/overrun". -/
def execRxe (b : Byte) (s : State) : Out := whenRunning s (.next (linkDeliver b true s))

/-- LRDY: LINK_TX_DONE, enabled only when TXRDY = 0 (R41, R93). -/
def execLrdy (s : State) : Out :=
  whenRunning s (whenEnabled (!s.txrdy) (.next { s with txrdy := true }))

/-- EVQF v (R42): always enabled (R93). -/
def execEvqf (v : Bool) (s : State) : Out := whenRunning s (.next { s with evqFull := v })

end Sys2Proof.Machine
end

