-- ==== Sys2Proof/Machine/Flags.lean ====
section
/-! DEFINITION. The flags of MODS and the modifier tracker (10_state.md R30, 43_dispatch.md R146 to
R149). -/

namespace Sys2Proof.Machine

/-- What the tracker answers (R146). -/
inductive ModVerdict where
  | consumed | unchanged
  deriving DecidableEq, Repr

/-- MODS with bit k set to v and the other four bits unchanged (R147). -/
def setFlag (m : BitVec 5) (k : Nat) (v : Bool) : BitVec 5 :=
  if v then m ||| (1#5 <<< k) else m &&& ~~~(1#5 <<< k)

/-- The MODS bit of a held modifier, for a scan code that is one of the four (R30, R147). -/
def heldBit (p : Params) (sc : ScanCode) : Nat :=
  if sc = p.lshiftSc then 0 else if sc = p.rshiftSc then 1 else if sc = p.ctrlSc then 2 else 3

/-- Whether a scan code is one of the four held modifiers (R146). -/
def isHeld (p : Params) (sc : ScanCode) : Bool :=
  sc == p.lshiftSc || sc == p.rshiftSc || sc == p.ctrlSc || sc == p.altSc

/-- MOD_SETCLR(sc, rel) (R147): a press sets the modifier's bit, a release clears it. -/
def modSetClr (sc : ScanCode) (rel : Bool) (s : State) : State :=
  { s with mods := setFlag s.mods (heldBit s.cfg sc) (!rel) }

/-- MOD_CAPS(rel) (R148): a press toggles CAPS, a release changes nothing. -/
def modCaps (rel : Bool) (s : State) : State :=
  if rel then s else { s with mods := setFlag s.mods 4 (!s.mods.getLsbD 4) }

/-- MOD_CLASSIFY(b) (R146 to R149): the verdict and the state after it. -/
def modClassify (b : Byte) (s : State) : ModVerdict × State :=
  if isHeld s.cfg (scancode b) then (.consumed, modSetClr (scancode b) (released b) s)
  else if scancode b = s.cfg.capsSc then (.consumed, modCaps (released b) s)
  else (.unchanged, s)

end Sys2Proof.Machine
end

