-- ==== Sys2Proof/Machine/Router.lean ====
section
/-! DEFINITION. The dispatcher: key-transition routing and package dispatch (43_dispatch.md). It runs
inside the decoder's step and raises no fault. -/

namespace Sys2Proof.Machine

/-- ROUTE_EVENT_FULL (R142): the event is dropped, one diagnostic is emitted. -/
def routeEventFull (b : Byte) (s : State) : State := s.emit (.diag .evqFull (scanData b))

/-- ROUTE_EVENT (R141). -/
def routeEvent (b : Byte) (s : State) : State :=
  if s.evqFull then routeEventFull b s
  else s.emitEvent (scancode b) (transitionOf b).value

/-- ROUTE_GEN (R143). -/
def routeGen (b : Byte) (s : State) : State :=
  s.emit (.gen s.cfg.genHandle (transitionOf b) (scancode b))

/-- ROUTE_TERM (R144): the modifier tracker first, then the raw code to the terminal filter. -/
def routeTerm (b : Byte) (s : State) : State :=
  match modClassify b s with
  | (.consumed, s') => s'
  | (.unchanged, s') => s'.emit (.term b)

/-- ROUTE_KEY (R140): exactly one path. -/
def routeKey (b : Byte) (s : State) : State :=
  if s.mode = modeEvent then routeEvent b s
  else if s.genPresent && s.mode != modePoll then routeGen b s
  else routeTerm b s

/-- Whether a package kind goes to the pointer-device decoder (R150). -/
def isPointerKind : Kind → Bool
  | .ams => true
  | .rms => true
  | .joy0 => true
  | .joy1 => true
  | .mem => false
  | .clk => false

/-- DISPATCH_PKG (R150), with DISCARD_PKG (R151): the package in PKG[0 .. PKG_LEN-1]. -/
def dispatchPkg (s : State) : State :=
  if isPointerKind s.pkgKind then s.emit (.ptr s.pkgKind s.pkgLen (s.pkgBytes s.pkgLen))
  else s

end Sys2Proof.Machine
end

