-- ==== Sys2Proof/Machine/Decoder.lean ====
section
/-! DEFINITION. The package decoder (42_decoder.md), and the meanings of the ten received-byte classes.
A class applies in the decoder state of its table row only (30_encoding.md R96): in the other one the
byte is another class, so the operation is not enabled (log 14). -/

namespace Sys2Proof.Machine

/-- DEC_KEY (R121). -/
def decKey (b : Byte) (s : State) : State := routeKey b s

/-- DEC_HEADER (R122): a known header starts a package. -/
def decHeader (b : Byte) (kind : Kind) (len : BitVec 4) (s : State) : State :=
  { s.pkgWrite 0 b with pkgIdx := 1, pkgKind := kind, pkgLen := len, decState := .assembling }

/-- DEC_COMPLETE (R124): dispatch, then back to IDLE. -/
def decComplete (s : State) : State :=
  { dispatchPkg s with decState := .idle, pkgIdx := 0 }

/-- DEC_PAYLOAD (R123). -/
def decPayload (b : Byte) (s : State) : State :=
  let stored := { s.pkgWrite s.pkgIdx b with pkgIdx := s.pkgIdx + 1 }
  if stored.pkgIdx = stored.pkgLen then decComplete stored else stored

/-- DEC_UNKNOWN (R125). -/
def decUnknown (b : Byte) (s : State) : State := s.emit (.diag .unknownHeader b)

/-- DECODE(b) (R120), by the classification of R84. -/
def decodeInto (b : Byte) (s : State) : State :=
  match classify s.cfg s.decState b with
  | .payload => decPayload b s
  | .hdrKnown kind len => decHeader b kind len s
  | .hdrUnknown => decUnknown b s
  | .keyPress _ => decKey b s
  | .keyRelease _ => decKey b s

/-- An operation of the byte classes that apply in IDLE. -/
def inIdle (s : State) (t : State) : Out := whenRunning s (whenEnabled (s.decState == .idle) (.next t))

/-- HDR_MEM (R122). -/
def execHdrMem (h : Byte) (len : BitVec 4) (s : State) : Out := inIdle s (decHeader h .mem len s)

/-- HDR_AMS (R122). -/
def execHdrAms (h : Byte) (len : BitVec 4) (s : State) : Out := inIdle s (decHeader h .ams len s)

/-- HDR_RMS (R122). -/
def execHdrRms (h : Byte) (len : BitVec 4) (s : State) : Out := inIdle s (decHeader h .rms len s)

/-- HDR_CLK (R122). -/
def execHdrClk (h : Byte) (len : BitVec 4) (s : State) : Out := inIdle s (decHeader h .clk len s)

/-- HDR_UNKNOWN (R125). -/
def execHdrUnknown (h : Byte) (s : State) : Out := inIdle s (decUnknown h s)

/-- HDR_JOY0 (R122). -/
def execHdrJoy0 (h : Byte) (len : BitVec 4) (s : State) : Out := inIdle s (decHeader h .joy0 len s)

/-- HDR_JOY1 (R122). -/
def execHdrJoy1 (h : Byte) (len : BitVec 4) (s : State) : Out := inIdle s (decHeader h .joy1 len s)

/-- KEY_PRESS (R121): the code with bit 7 clear. -/
def execKeyPress (sc : ScanCode) (s : State) : Out := inIdle s (decKey (0#1 ++ sc) s)

/-- KEY_RELEASE (R121): the code with bit 7 set. -/
def execKeyRelease (sc : ScanCode) (s : State) : Out := inIdle s (decKey (1#1 ++ sc) s)

/-- PAYLOAD (R123, R124). -/
def execPayload (data : Byte) (s : State) : Out :=
  whenRunning s (whenEnabled (s.decState == .assembling) (.next (decPayload data s)))

end Sys2Proof.Machine
end

