-- ==== Sys2Proof/Machine/Ring.lean ====
section
/-! DEFINITION. The ring buffer's operations (41_ring.md): receive and discard (IRQ), snapshot and
drain (SOFT). -/

namespace Sys2Proof.Machine

/-- RX_PUSH (R100) of the byte b, with `rest` left in LINK_RXQ. GET is not read (R102). -/
def rxPush (b : Byte) (rest : List (Byte × Bool)) (s : State) : State :=
  { s.ringWrite s.put b with put := s.put + 1, softPend := true, linkRxq := rest }

/-- RX_DISCARD (R101), with `rest` left in LINK_RXQ. -/
def rxDiscard (rest : List (Byte × Bool)) (s : State) : State := { s with linkRxq := rest }

/-- IRQRX: RX_PUSH or RX_DISCARD on the head pair, when IRQ_EN = 1 and there is one (R93, R103). -/
def execIrqrx (s : State) : Out :=
  whenRunning s
    (match s.linkRxq with
     | [] => .refused .blocked
     | (b, err) :: rest =>
       whenEnabled s.irqEn (.next (if err then rxDiscard rest s else rxPush b rest s)))

/-- The valid count of a snapshot, PUT - GET modulo 2^32 (R105, R110). -/
def unread (s : State) : Count := s.put - s.get

/-- DRAIN_BEGIN (R105): the snapshot, with the overwritten bytes skipped. -/
def drainBegin (s : State) : State :=
  let n := unread s
  if s.cfg.ringSize < n.toNat then
    { s with softPend := false, get := s.put - ringSizeW s.cfg, drN := ringSizeW s.cfg,
             drActive := ringSizeW s.cfg != 0 }
  else { s with softPend := false, drN := n, drActive := n != 0 }

/-- SOFTB (R105). -/
def execSoftb (s : State) : Out :=
  whenRunning s (whenEnabled (!s.drActive && s.softPend) (.next (drainBegin s)))

/-- The ring part of DRAIN_NEXT (R106): the byte has been read, GET and DR_N advance. -/
def drainTake (s : State) : State :=
  { s with get := s.get + 1, drN := s.drN - 1,
           drActive := if s.drN - 1 = 0 then false else s.drActive }

/-- SOFTN: DRAIN_NEXT (R106), with DECODE in the same step. -/
def execSoftn (s : State) : Out :=
  whenRunning s (whenEnabled s.drActive (.next (decodeInto (s.ringRead s.get) (drainTake s))))

end Sys2Proof.Machine
end

