-- ==== Sys2Proof/Machine/Transmit.lean ====
section
/-! DEFINITION. The output-command handshake (44_output.md): `send`, the transmit step and
`send_polling`. -/

namespace Sys2Proof.Machine

/-! ### Interrupt-driven send -/

/-- SEND_CALL: thread t calls `send(base, len)` (R170); the checks run in this order (R231). -/
def sendCall (t base : Nat) (len : Count) (s : State) : Out :=
  threadStep t .idle s fun th =>
    if len = 0 then raiseFault .sendZeroLen t s
    else if pastTop s.cfg (addrCut s.cfg base) len then raiseFault .cmdRange t s
    else if s.irqEn = false then raiseFault .sendIrqOff t s
    else .next (s.setThread t { th with base := addrCut s.cfg base, len := len, state := .acq })

/-- SEND t, len: base = BUF_t (R92, R170). -/
def execSend (t len : BitVec 4) (s : State) : Out :=
  sendCall t.toNat (s.bufOf t.toNat) (len.setWidth 32) s

/-- Hand the byte at TX_CURSOR to the link; the byte that makes TX_REM 0 completes the transmission
(R173, R176, R177). -/
def txByte (s : State) : State :=
  { s.linkTx (s.memRead s.txCursor) with
      txCursor := addrAdd s.cfg s.txCursor 1
      txRem := s.txRem - 1
      txBusy := if s.txRem - 1 = 0 then false else s.txBusy }

/-- TX_FIRST (R173): the first byte goes at once if the link is ready. -/
def txFirst (s : State) : State := if s.txrdy then txByte s else s

/-- The registers SEND_ACQUIRE loads before TX_FIRST (R172). -/
def acquired (t : Nat) (th : Thread) (s : State) : State :=
  { s.setThread t { th with state := .wait } with
      txBusy := true, txCursor := th.base, txRem := th.len }

/-- SEND_ACQUIRE (R172), with TX_FIRST in the same step. -/
def acquire (t : Nat) (s : State) : Out :=
  threadStep t .acq s fun th =>
    whenEnabled (!s.txBusy) (.next (txFirst (acquired t th s)))

/-- ACQ t (R172). -/
def execAcq (t : BitVec 4) (s : State) : Out := acquire t.toNat s

/-- SEND_RETURN (R174). -/
def sendReturn (t : Nat) (s : State) : Out :=
  threadStep t .wait s fun th =>
    whenEnabled (!s.txBusy) (.next ((s.emit (.ret t .send .ok)).setThread t { th with state := .idle }))

/-- SRET t (R174). -/
def execSret (t : BitVec 4) (s : State) : Out := sendReturn t.toNat s

/-- TXI: TX_STEP (R176). -/
def execTxi (s : State) : Out :=
  whenRunning s (whenEnabled (s.irqEn && s.txrdy && s.txBusy) (.next (txByte s)))

/-! ### Polled send -/

/-- PSEND_CALL: thread t calls `send_polling(base, len)` (R180); the checks run in this order (R231). -/
def sendPolling (t base : Nat) (len : Count) (s : State) : Out :=
  threadStep t .idle s fun th =>
    if len = 0 then raiseFault .sendZeroLen t s
    else if pastTop s.cfg (addrCut s.cfg base) len then raiseFault .cmdRange t s
    else if s.irqEn then raiseFault .pollIrqOn t s
    else if s.txBusy || s.threadsWith (fun u st => u != t && st != .idle) != [] then
      raiseFault .pollBusy t s
    else
      .next (s.setThread t
        { th with base := addrCut s.cfg base, len := len, idx := 0, spin := 0, state := .poll })

/-- PSEND t, len: base = BUF_t (R92, R180). -/
def execPsend (t len : BitVec 4) (s : State) : Out :=
  sendPolling t.toNat (s.bufOf t.toNat) (len.setWidth 32) s

/-- POLL_WRITE (R182): the next command byte goes to the link. -/
def pollWrite (t : Nat) (th : Thread) (s : State) : State :=
  let sent := s.linkTx (s.memRead (addrAdd s.cfg th.base th.idx.toNat))
  if th.idx + 1 = th.len then
    (sent.emit (.ret t .sendPoll .ok)).setThread t { th with idx := th.idx + 1, spin := 0, state := .idle }
  else sent.setThread t { th with idx := th.idx + 1, spin := 0 }

/-- A failed check of the link (R181, R183): POLL_TIMEOUT of them in a row fail the call. TH_SPIN has 32
bits (R37) and POLL_TIMEOUT no upper bound (R6): for a POLL_TIMEOUT of 2^32 or more the count wraps, as
R181 with R7 computes it, and the call never fails (DESIGN CHOICE; log 24). -/
def pollFail (t : Nat) (th : Thread) (s : State) : State :=
  if (th.spin + 1).toNat = s.cfg.pollTimeout then
    (s.emit (.ret t .sendPoll .fail)).setThread t { th with spin := th.spin + 1, state := .idle }
  else s.setThread t { th with spin := th.spin + 1 }

/-- POLL_STEP (R181). -/
def pollStep (t : Nat) (s : State) : Out :=
  threadStep t .poll s fun th =>
    .next (if s.txrdy then pollWrite t th s else pollFail t th s)

/-- PSTEP t (R181). -/
def execPstep (t : BitVec 4) (s : State) : Out := pollStep t.toNat s

end Sys2Proof.Machine
end

