-- ==== Sys2Proof/Machine/Dispatch.lean ====
section
/-! DEFINITION. The meaning of each instruction: one arm per row of spec/opcode_table.json. -/

namespace Sys2Proof.Machine

def exec (i : Instr) (s : State) : Host.Outcome State Fault Refusal :=
  match i with
  | .hdrMem h len => Sys2Proof.Machine.execHdrMem h len s
  | .hdrAms h len => Sys2Proof.Machine.execHdrAms h len s
  | .hdrRms h len => Sys2Proof.Machine.execHdrRms h len s
  | .hdrClk h len => Sys2Proof.Machine.execHdrClk h len s
  | .hdrUnknown h => Sys2Proof.Machine.execHdrUnknown h s
  | .hdrJoy0 h len => Sys2Proof.Machine.execHdrJoy0 h len s
  | .hdrJoy1 h len => Sys2Proof.Machine.execHdrJoy1 h len s
  | .keyPress sc => Sys2Proof.Machine.execKeyPress sc s
  | .keyRelease sc => Sys2Proof.Machine.execKeyRelease sc s
  | .payload data => Sys2Proof.Machine.execPayload data s
  | .rx b => Sys2Proof.Machine.execRx b s
  | .rxe b => Sys2Proof.Machine.execRxe b s
  | .irqrx => Sys2Proof.Machine.execIrqrx s
  | .softb => Sys2Proof.Machine.execSoftb s
  | .softn => Sys2Proof.Machine.execSoftn s
  | .crw r v => Sys2Proof.Machine.execCrw r v s
  | .crr r => Sys2Proof.Machine.execCrr r s
  | .send t len => Sys2Proof.Machine.execSend t len s
  | .acq t => Sys2Proof.Machine.execAcq t s
  | .sret t => Sys2Proof.Machine.execSret t s
  | .txi => Sys2Proof.Machine.execTxi s
  | .lrdy => Sys2Proof.Machine.execLrdy s
  | .psend t len => Sys2Proof.Machine.execPsend t len s
  | .pstep t => Sys2Proof.Machine.execPstep t s
  | .reen => Sys2Proof.Machine.execReen s
  | .reset => Sys2Proof.Machine.execReset s
  | .evqf v => Sys2Proof.Machine.execEvqf v s

end Sys2Proof.Machine
end

