-- ==== Sys2Proof/Machine/Environment.lean ====
section
/-! DEFINITION. The schedule entries that are no stimulus words (log 15): the operations of the caller
threads with any operand, the environment's TIME and the callers' stores, and the requests the spec
refuses by name. -/

namespace Sys2Proof.Machine

/-- Whether a call in progress holds the address in its command buffer (R262). -/
def bufferHeld (addr : Nat) (s : State) : Bool :=
  s.threads.any fun th =>
    th.state != .idle && decide (th.base ≤ addr) && decide (addr < th.base + th.len.toNat)

/-- The environment supplies the TIME of the next event record (R42, R235). -/
def supplyTime (time : Nat) (s : State) : Out := whenRunning s (.next { s with timeIn := some time })

/-- A caller stores a byte in its own memory, outside every buffer that a call holds (R262). -/
def callerStore (addr : Nat) (b : Byte) (s : State) : Out :=
  whenRunning s
    (if addrSpace s.cfg ≤ addr then .refused .noSuchAddress
     else if bufferHeld addr s then .refused .callerBufferHeld
     else .next { s with mem := Memory.write s.mem addr b })

/-- A request without a meaning is refused by name and leaves the block untouched (R3, R209, R220). -/
def refuseRequest (r : Refusal) (s : State) : Out := whenRunning s (.refused r)

/-- The step of a schedule entry that is no stimulus word. A word is taken by `step` through the
decoder; here it is refused. -/
def perform (a : Action) (s : State) : Out :=
  match a with
  | .word w => .refused (.illFormedWord w)
  | .crWrite t r v => crWrite t r v s
  | .crRead t r => crRead t r s
  | .reenable t => reenable t s
  | .reset t => resetBy t s
  | .send t base len => sendCall t base len s
  | .acquire t => acquire t s
  | .sendReturn t => sendReturn t s
  | .sendPolling t base len => sendPolling t base len s
  | .pollStep t => pollStep t s
  | .supplyTime time => supplyTime time s
  | .callerStore addr b => callerStore addr b s
  | .bell => refuseRequest .bell s
  | .consoleReadKey => refuseRequest .consoleReadKey s
  | .registerAccess _ => refuseRequest .registerAccess s

end Sys2Proof.Machine
end

