-- ==== Sys2Proof/Machine/Step.lean ====
section
/-! DEFINITION. One step of the machine: the step that the head of the schedule names (00_scope.md R4,
30_encoding.md R91 to R93; log 1). -/

namespace Sys2Proof.Machine

/-- The schedule entry that has been taken leaves the schedule. -/
def State.advance (s : State) : State := { s with sched := s.sched.tail }

/-- A step that answers a next state takes its schedule entry; any other outcome stops the run. -/
def advanced (o : Out) : Out :=
  match o with
  | .next t => .next t.advance
  | .fault r => .fault r
  | .refused r => .refused r

/-- One atomic step (R5): the step of the schedule's head. In the faulted state no agent steps (R38);
a stimulus word that the decoder refuses is REFUSED (R95). -/
def step (s : State) : Host.Outcome State Fault Refusal :=
  whenRunning s
    (match s.sched with
     | [] => .refused .scheduleEnd
     | .word w :: _ =>
       match decodeWord s.nthreads w with
       | some i => advanced (exec i s)
       | none => .refused (.illFormedWord w)
     | a :: _ => advanced (perform a s))

/-- The state whose next step runs the instruction with the bits `w` of a row of `nbits` bits. A
stimulus word is put at the head of the schedule. A received byte is put in the ring slot that the
next DRAIN_NEXT reads, with a drain active and SOFTN at the head of the schedule (log 1, log 14). -/
def State.withFetchWord (s : State) (nbits w : Nat) : State :=
  match nbits with
  | 8 =>
    { s.ringWrite s.get (BitVec.ofNat 8 w) with
        drActive := true
        drN := if s.drN = 0 then 1 else s.drN
        sched := .word 0x0500#16 :: s.sched }
  | _ => { s with sched := .word (BitVec.ofNat 16 w) :: s.sched }

end Sys2Proof.Machine
end

