-- ==== Sys2Proof/WellFormed.lean ====
section
/-! DEFINITION. When an instruction is one that the encodings can express: the values and the decoder
state its row of spec/opcode_table.json admits (30_encoding.md R81 to R85, R92, R95, R96). -/

namespace Sys2Proof

/-- A header row applies in IDLE, to a header value that HDR_TABLE gives this kind and length. -/
def headerOk (p : Params) (st : DecState) (k : Kind) (h : Byte) (len : BitVec 4) : Bool :=
  st == .idle && isHeader h && hdrLookup p h == some ⟨k, len⟩

/-- Well-formedness of an instruction for parameters `p`, a number of threads and a decoder state. -/
def wellFormed (p : Params) (nthreads : Nat) (st : DecState) : Instr → Bool
  | .hdrMem h len => headerOk p st .mem h len
  | .hdrAms h len => headerOk p st .ams h len
  | .hdrRms h len => headerOk p st .rms h len
  | .hdrClk h len => headerOk p st .clk h len
  | .hdrUnknown h => st == .idle && isHeader h && (hdrLookup p h).isNone
  | .hdrJoy0 h len => headerOk p st .joy0 h len
  | .hdrJoy1 h len => headerOk p st .joy1 h len
  | .keyPress _ => st == .idle
  | .keyRelease sc => st == .idle && decide (sc.toNat ≤ 0x75)
  | .payload _ => st == .assembling
  | .rx _ => true
  | .rxe _ => true
  | .irqrx => true
  | .softb => true
  | .softn => true
  | .crw _ _ => true
  | .crr _ => true
  | .send t _ => decide (t.toNat < nthreads)
  | .acq t => decide (t.toNat < nthreads)
  | .sret t => decide (t.toNat < nthreads)
  | .txi => true
  | .lrdy => true
  | .psend t _ => decide (t.toNat < nthreads)
  | .pstep t => decide (t.toNat < nthreads)
  | .reen => true
  | .reset => true
  | .evqf _ => true

end Sys2Proof
end

