-- ==== Sys2Proof/Safety.lean ====
section
/-! DEFINITION. What counts as a sound state: the invariants that the spec gives every reachable state
(10_state.md R23, R27, R28, R31, R36, R39, 45_control.md R208), in the terms the statements use. -/

namespace Sys2Proof.Machine

/-- The parameters are within their bounds and there is a thread T0 (R6). -/
abbrev State.CfgInv (s : State) : Prop := s.cfg.wf ∧ s.threads ≠ []

/-- The ring has RING_SIZE slots; DR_N is at most RING_SIZE; a drain is active exactly while bytes are
left to read (R23, R25, R39.5). -/
abbrev State.RingInv (s : State) : Prop :=
  s.ring.length = s.cfg.ringSize ∧ s.drN.toNat ≤ s.cfg.ringSize ∧ (s.drActive = true ↔ s.drN ≠ 0)

/-- IDLE exactly when PKG_IDX = 0; while ASSEMBLING, fewer than PKG_LEN bytes are stored, and the first
is a header to which HDR_TABLE gives PKG_KIND and PKG_LEN (R27, R28, R39.1, R39.2). So PKG_LEN is one of
the lengths of HDR_TABLE: 2, 3, 6, 7 or 8 with the default table (log 25). -/
abbrev State.DecInv (s : State) : Prop :=
  (s.decState = .idle ↔ s.pkgIdx = 0) ∧
    (s.decState = .assembling →
      s.pkgIdx.toNat < s.pkgLen.toNat ∧ isHeader (s.pkgRead 0) = true ∧
        hdrLookup s.cfg (s.pkgRead 0) = some ⟨s.pkgKind, s.pkgLen⟩)

/-- MODE is not 3 (R39.4). -/
abbrev State.ModeInv (s : State) : Prop := s.mode ≠ 3

/-- TX_BUSY = 1 exactly when TX_REM > 0 (R36, R39.3); a transmission is outstanding only with IRQ_EN = 1
(R208.1), the TX_REM bytes from TX_CURSOR are the rest of the buffer of a caller in WAIT (R39.6, R178),
and they lie within the address space (R46). -/
abbrev State.TxInv (s : State) : Prop :=
  (s.txBusy = true ↔ s.txRem ≠ 0) ∧ s.txCursor < addrSpace s.cfg ∧
    (s.txBusy = true →
      s.irqEn = true ∧
        (∃ th ∈ s.threads, th.state = .wait ∧ th.base ≤ s.txCursor ∧
          s.txCursor + s.txRem.toNat = th.base + th.len.toNat) ∧
        s.txCursor + s.txRem.toNat ≤ addrSpace s.cfg)

/-- What a thread's call in progress has been checked for (R170, R180, R181, R182, R208). -/
abbrev State.CallInv (s : State) (th : Thread) : Prop :=
  th.base < addrSpace s.cfg ∧
    (th.state ≠ .idle → th.len ≠ 0 ∧ th.base + th.len.toNat ≤ addrSpace s.cfg) ∧
    (th.state = .acq → s.irqEn = true) ∧
    (th.state = .poll →
      s.irqEn = false ∧ s.txBusy = false ∧ th.idx.toNat < th.len.toNat ∧
        th.spin.toNat < s.cfg.pollTimeout)

/-- Every thread's call, and: while a thread is in POLL every other thread is IDLE (R208.2). -/
abbrev State.ThreadInv (s : State) : Prop :=
  (∀ th ∈ s.threads, s.CallInv th) ∧
    ∀ u < s.nthreads, ∀ v < s.nthreads,
      s.threadIs u (· == .poll) = true → u ≠ v → s.threadIs v (· == .idle) = true

/-- Caller memory is in canonical form, within the address space (R60). -/
abbrev State.MemInv (s : State) : Prop :=
  Memory.wf s.mem ∧ ∀ c ∈ s.mem, c.1 < addrSpace s.cfg

/-- The invariant of the machine. -/
abbrev State.Inv (s : State) : Prop :=
  s.CfgInv ∧ s.RingInv ∧ s.DecInv ∧ s.ModeInv ∧ s.TxInv ∧ s.ThreadInv ∧ s.MemInv

/-! ### Terms the statements use -/

/-- RING_MASK = RING_SIZE - 1 (R6). -/
def ringMask (p : Params) : Count := BitVec.ofNat 32 (2 ^ p.ringLog2 - 1)

/-- The path on which the modifier tracker runs (R140, R144, R146): MODE is not EVENT, and the generic
sink is absent or MODE = POLL. -/
abbrev State.TerminalPath (s : State) : Prop := s.mode ≠ 1 ∧ (s.genPresent = false ∨ s.mode = 2)

/-- Thread t exists, is in TH_STATE `st`, and has the registers `th`. -/
abbrev State.ThreadAt (s : State) (t : Nat) (st : ThState) (th : Thread) : Prop :=
  s.threads[t]? = some th ∧ th.state = st

/-- A list of operations one after another, stopping at the first that answers no next state. -/
def execAll : List Instr → State → Out
  | [], s => .next s
  | i :: rest, s =>
    match exec i s with
    | .next t => execAll rest t
    | .fault r => .fault r
    | .refused r => .refused r

/-- The transactions a step from s to t has emitted (R10). -/
def emitted (s t : State) : List Txn := t.history.drop s.history.length

/-- The words of the transmitter and of its side of the link (R2, R171 to R182). -/
def isTransmitWord : Instr → Bool
  | .send _ _ => true
  | .acq _ => true
  | .sret _ => true
  | .txi => true
  | .lrdy => true
  | .psend _ _ => true
  | .pstep _ => true
  | _ => false

/-- The operations of SOFT: the drain words and the byte classes (R235). -/
def isSoftWord : Instr → Bool
  | .softb => true
  | .softn => true
  | .hdrMem _ _ => true
  | .hdrAms _ _ => true
  | .hdrRms _ _ => true
  | .hdrClk _ _ => true
  | .hdrUnknown _ => true
  | .hdrJoy0 _ _ => true
  | .hdrJoy1 _ _ => true
  | .keyPress _ => true
  | .keyRelease _ => true
  | .payload _ => true
  | _ => false

/-- The stimulus words: every instruction but the ten byte classes. -/
def isStimulusWord (i : Instr) : Bool := !isSoftWord i || i == .softb || i == .softn

/-- The calls and steps of the transmitter whose operands no word can name (R170 to R182; log 15). -/
def isTransmitAction : Action → Bool
  | .send _ _ _ => true
  | .acquire _ => true
  | .sendReturn _ => true
  | .sendPolling _ _ _ => true
  | .pollStep _ => true
  | _ => false

/-- Two states agree on all that the transmitter works on: its registers, the threads, TXRDY, IRQ_EN,
FAULT, caller memory and the parameters (44_output.md). -/
abbrev State.SameTransmitter (s u : State) : Prop :=
  u.cfg = s.cfg ∧ u.mem = s.mem ∧ u.irqEn = s.irqEn ∧ u.fault = s.fault ∧ u.txBusy = s.txBusy ∧
    u.txCursor = s.txCursor ∧ u.txRem = s.txRem ∧ u.threads = s.threads ∧ u.txrdy = s.txrdy

/-- `u` with what a step of the transmitter from s to t has written, its transactions among it. -/
def State.withTransmitter (u s t : State) : State :=
  { u with
    txBusy := t.txBusy, txCursor := t.txCursor, txRem := t.txRem, threads := t.threads
    txrdy := t.txrdy, fault := t.fault, history := u.history ++ emitted s t }

/-- Two states agree on all that the ring, the decoder and the dispatcher work on, with LINK_RXQ,
EVQ_FULL, IRQ_EN, FAULT, the parameters and the model's fields of TIME (41_ring.md to 43_dispatch.md;
log 7). -/
abbrev State.SameReceiver (s u : State) : Prop :=
  u.cfg = s.cfg ∧ u.irqEn = s.irqEn ∧ u.fault = s.fault ∧ u.put = s.put ∧ u.get = s.get ∧
    u.ring = s.ring ∧ u.softPend = s.softPend ∧ u.drActive = s.drActive ∧ u.drN = s.drN ∧
    u.decState = s.decState ∧ u.pkgKind = s.pkgKind ∧ u.pkgLen = s.pkgLen ∧ u.pkgIdx = s.pkgIdx ∧
    u.pkg = s.pkg ∧ u.mods = s.mods ∧ u.mode = s.mode ∧ u.genPresent = s.genPresent ∧
    u.linkRxq = s.linkRxq ∧ u.evqFull = s.evqFull ∧ u.timeIn = s.timeIn ∧ u.draws = s.draws

/-- `u` with what a receive or drain step from s to t has written, its transactions among it. -/
def State.withReceiver (u s t : State) : State :=
  { u with
    put := t.put, get := t.get, ring := t.ring, softPend := t.softPend, drActive := t.drActive
    drN := t.drN, decState := t.decState, pkgKind := t.pkgKind, pkgLen := t.pkgLen
    pkgIdx := t.pkgIdx, pkg := t.pkg, mods := t.mods, linkRxq := t.linkRxq
    timeIn := t.timeIn, draws := t.draws, history := u.history ++ emitted s t }

/-- The outcome of a step from s, with its next state carried over to another start state by `f`. -/
def carried (f : State → State) : Out → Out
  | .next t => .next (f t)
  | .fault r => .fault r
  | .refused r => .refused r

/-- A sound state of the running block: the invariant holds and no model fault has been raised. -/
abbrev State.Safe (s : State) : Prop := s.Inv ∧ s.fault = none

end Sys2Proof.Machine
end

