-- ==== Sys2Proof/Certificates/Slice0/Obligations.lean ====
section
/-! DEFINITION. The statements for the provers. Each docstring names the rule of spec/ it formalises; a
statement that rests on a choice of the model names the log entry. An equation `exec i s = .next {...}`
says the result, that the instruction completes, and the frame: every field that is not named keeps its
value, caller memory and the event history among them. -/

open Sys2Proof Sys2Proof.Machine

/-! ### Encoding -/

/-- Decoding the encoding of a well-formed instruction gives it back, whatever its operands
(30_encoding.md sections 1 to 5). -/
def Obligations.DecodeOfEncodeIsIdentity : Prop :=
  ∀ (p : Params) (n : Nat) (st : DecState) (i : Instr),
    wellFormed p n st i = true → decode p n st (encode i) = some i

/-- A byte or word that decodes is the encoding of what it decodes to, and that is well-formed: no two
codes share a meaning (30_encoding.md sections 1 to 6). -/
def Obligations.EncodeOfDecodeIsIdentity : Prop :=
  ∀ (p : Params) (n : Nat) (st : DecState) (c : Code) (i : Instr),
    decode p n st c = some i → encode i = c ∧ wellFormed p n st i = true

/-- Words and bytes written out from R81, R82, R92 decode to what they stand for. -/
def Obligations.WrittenOutCodesDecode : Prop :=
  decode tableParams 16 .idle (.byte 0b01111000#8) = some (.keyPress 0x78#7) ∧
  decode tableParams 16 .idle (.byte 0b10101010#8) = some (.keyRelease 0x2A#7) ∧
  decode tableParams 16 .idle (.byte 0b11110111#8) = some (.hdrAms 0xF7#8 6#4) ∧
  decode tableParams 16 .assembling (.byte 0b11110111#8) = some (.payload 0xF7#8) ∧
  decode tableParams 16 .idle (.word 0b0000011010000001#16) = some (.crw 2#2 1#6) ∧
  decode tableParams 16 .idle (.word 0b0000100000100011#16) = some (.send 2#4 3#4) ∧
  decode tableParams 16 .idle (.word 0b0001000100000001#16) = some (.evqf true)

/-- R95: the stimulus decoder is total, refuses exactly the reserved opcodes, the non-zero reserved
bits and the threads t >= NTHREADS, and a refused word stops the program without a fault. -/
def Obligations.StimulusDecoderRefusesExactlyTheReserved : Prop :=
  (∀ (n : Nat) (w : StimWord),
    decodeWord n w = none ↔
      (let op := w.toNat / 256
       let imm := w.toNat % 256
       op = 0 ∨ 0x12 ≤ op ∨
       (op ∈ [0x03, 0x04, 0x05, 0x0B, 0x0C, 0x0F, 0x10] ∧ imm ≠ 0) ∨
       (op = 0x07 ∧ imm % 64 ≠ 0) ∨
       (op ∈ [0x09, 0x0A, 0x0E] ∧ imm % 16 ≠ 0) ∨
       (op = 0x11 ∧ 2 ≤ imm) ∨
       (op ∈ [0x08, 0x09, 0x0A, 0x0D, 0x0E] ∧ n ≤ imm / 16))) ∧
  (∀ (s : State) (w : StimWord) (rest : List Action),
    s.fault = none → s.sched = .word w :: rest → decodeWord s.nthreads w = none →
      step s = .refused (.illFormedWord w))

/-- R96: for every decoder state and byte, exactly one row of the opcode table results, and it is the
row of the instruction the decoder reads (with the default HDR_TABLE; log 13). -/
def Obligations.ExactlyOneByteRowResults : Prop :=
  ∀ (st : DecState) (b : Byte),
    (rowsFor st b).map ByteRow.mnemonic = [mnemonic (decodeByte tableParams st b)]

/-- The default HDR_TABLE (30_encoding.md section 3, R85) as State.reset holds it, and the kind codes
(R86). The table is the model's choice of parameter (PRESUMED; log 13): R85 itself marks the entries of
0xFC to 0xFF, and the names AMS and RMS, as general knowledge and not in the source. -/
def Obligations.DefaultHeaderTable : Prop :=
  (hdrLookup State.reset.cfg 0xF6#8 = some ⟨.mem, 8⟩ ∧ hdrLookup State.reset.cfg 0xF7#8 = some ⟨.ams, 6⟩ ∧
   hdrLookup State.reset.cfg 0xF8#8 = some ⟨.rms, 3⟩ ∧ hdrLookup State.reset.cfg 0xF9#8 = some ⟨.rms, 3⟩ ∧
   hdrLookup State.reset.cfg 0xFA#8 = some ⟨.rms, 3⟩ ∧ hdrLookup State.reset.cfg 0xFB#8 = some ⟨.rms, 3⟩ ∧
   hdrLookup State.reset.cfg 0xFC#8 = some ⟨.clk, 7⟩ ∧ hdrLookup State.reset.cfg 0xFD#8 = none ∧
   hdrLookup State.reset.cfg 0xFE#8 = some ⟨.joy0, 2⟩ ∧ hdrLookup State.reset.cfg 0xFF#8 = some ⟨.joy1, 2⟩) ∧
  ([Kind.mem, .ams, .rms, .clk, .joy0, .joy1].map Kind.code = [0, 1, 2, 3, 4, 5])

/-- R84: the classification of every byte in both decoder states, with its operands. -/
def Obligations.BytesAreClassifiedByValue : Prop :=
  ∀ (p : Params) (b : Byte),
    decodeByte p .assembling b = .payload b ∧
    (b.toNat < 0x80 → decodeByte p .idle b = .keyPress (BitVec.ofNat 7 b.toNat)) ∧
    (0x80 ≤ b.toNat ∧ b.toNat < 0xF6 →
      decodeByte p .idle b = .keyRelease (BitVec.ofNat 7 (b.toNat - 0x80))) ∧
    (0xF6 ≤ b.toNat → hdrLookup p b = none → decodeByte p .idle b = .hdrUnknown b) ∧
    (∀ len, 0xF6 ≤ b.toNat →
      (hdrLookup p b = some ⟨.mem, len⟩ → decodeByte p .idle b = .hdrMem b len) ∧
      (hdrLookup p b = some ⟨.ams, len⟩ → decodeByte p .idle b = .hdrAms b len) ∧
      (hdrLookup p b = some ⟨.rms, len⟩ → decodeByte p .idle b = .hdrRms b len) ∧
      (hdrLookup p b = some ⟨.clk, len⟩ → decodeByte p .idle b = .hdrClk b len) ∧
      (hdrLookup p b = some ⟨.joy0, len⟩ → decodeByte p .idle b = .hdrJoy0 b len) ∧
      (hdrLookup p b = some ⟨.joy1, len⟩ → decodeByte p .idle b = .hdrJoy1 b len))

/-! ### The machine's step -/

/-- A step runs the stimulus word at the head of the schedule: it answers what exec answers on the
decoded instruction, and takes the word from the schedule (R91, R93; the schedule is log 1). An entry
that is no word is taken the same way (log 15). -/
def Obligations.StepRunsWhatIsScheduled : Prop :=
  (∀ (s : State) (w : StimWord) (rest : List Action) (i : Instr),
    s.fault = none → s.sched = .word w :: rest → decodeWord s.nthreads w = some i →
      step s = match exec i s with
        | .next t => .next { t with sched := t.sched.tail }
        | .fault r => .fault r
        | .refused r => .refused r) ∧
  (∀ (s : State) (a : Action) (rest : List Action),
    s.fault = none → s.sched = a :: rest → (∀ w, a ≠ .word w) →
      step s = match perform a s with
        | .next t => .next { t with sched := t.sched.tail }
        | .fault r => .fault r
        | .refused r => .refused r)

/-- R38: once FAULT is not NONE, no agent takes a step: no instruction, no request and no scheduled
step has a next state (the outcome is log 8's). -/
def Obligations.FaultedBlockTakesNoStep : Prop :=
  ∀ (s : State) (r : FaultRecord), s.fault = some r →
    (∀ i, exec i s = .fault (.halted r)) ∧
    (∀ a, (∀ w, a ≠ .word w) → perform a s = .fault (.halted r)) ∧
    step s = .fault (.halted r)

/-- R11, R222: a step that raises a model fault changes FAULT and nothing else, and no step raises
F_SEND_CONTEXT. (That such a step answers a next state, with FAULT written, is log 8.) -/
def Obligations.RaisingAFaultDiscardsTheStep : Prop :=
  (∀ (i : Instr) (s t : State), exec i s = .next t → t.fault ≠ none →
    ∃ r, r.code ≠ .sendContext ∧ t = { s with fault := some r }) ∧
  (∀ (a : Action) (s t : State), perform a s = .next t → t.fault ≠ none →
    ∃ r, r.code ≠ .sendContext ∧ t = { s with fault := some r })

/-- R12, R33, R93, R104, R171, R174: a step whose guard is false is not enabled, and is no fault. -/
def Obligations.FalseGuardsBlock : Prop :=
  ∀ (s : State), s.fault = none →
    (s.irqEn = false ∨ s.linkRxq = [] → exec .irqrx s = .refused .blocked) ∧
    (s.drActive = true ∨ s.softPend = false → exec .softb s = .refused .blocked) ∧
    (s.drActive = false → exec .softn s = .refused .blocked) ∧
    (s.irqEn = false ∨ s.txrdy = false ∨ s.txBusy = false → exec .txi s = .refused .blocked) ∧
    (s.txrdy = true → exec .lrdy s = .refused .blocked) ∧
    (∀ (t len : BitVec 4) (th : Thread), s.threads[t.toNat]? = some th →
      (th.state ≠ .idle →
        exec (.send t len) s = .refused .blocked ∧ exec (.psend t len) s = .refused .blocked) ∧
      (th.state ≠ .acq ∨ s.txBusy = true → exec (.acq t) s = .refused .blocked) ∧
      (th.state ≠ .wait ∨ s.txBusy = true → exec (.sret t) s = .refused .blocked) ∧
      (th.state ≠ .poll → exec (.pstep t) s = .refused .blocked)) ∧
    (∀ (r : BitVec 2) (v : BitVec 6) (th : Thread), s.threads[0]? = some th → th.state ≠ .idle →
      exec (.crw r v) s = .refused .blocked ∧ exec (.crr r) s = .refused .blocked ∧
      exec .reen s = .refused .blocked ∧ exec .reset s = .refused .blocked)

/-! ### The ring -/

/-- R61: the slot of an index is the index and RING_MASK, and indices RING_SIZE apart share it. -/
def Obligations.RingSlotIsIndexAndMask : Prop :=
  ∀ (p : Params) (i : Count), p.wf →
    ringSlot p i = (i &&& ringMask p).toNat ∧
    ∀ k : Nat, ringSlot p (i + BitVec.ofNat 32 (k * p.ringSize)) = ringSlot p i

/-- R100: RX_PUSH, for any fill of the ring (R102: GET is not read). -/
def Obligations.IrqrxPushesAGoodByte : Prop :=
  ∀ (s : State) (b : Byte) (rest : List (Byte × Bool)),
    s.cfg.wf → s.fault = none → s.irqEn = true → s.linkRxq = (b, false) :: rest →
      exec .irqrx s = .next { s with
        linkRxq := rest
        ring := s.ring.set (s.put &&& ringMask s.cfg).toNat b
        put := s.put + 1
        softPend := true }

/-- R101: RX_DISCARD drops a byte that the link flagged as bad, and changes nothing else. -/
def Obligations.IrqrxDropsABadByte : Prop :=
  ∀ (s : State) (b : Byte) (rest : List (Byte × Bool)),
    s.fault = none → s.irqEn = true → s.linkRxq = (b, true) :: rest →
      exec .irqrx s = .next { s with linkRxq := rest }

/-- R105: DRAIN_BEGIN, with the loss skip. -/
def Obligations.SoftbTakesTheCappedCount : Prop :=
  ∀ (s : State), s.cfg.wf → s.fault = none → s.drActive = false → s.softPend = true →
    ((s.put - s.get).toNat ≤ s.cfg.ringSize →
      exec .softb s = .next { s with
        softPend := false, drN := s.put - s.get, drActive := decide (s.put ≠ s.get) }) ∧
    (s.cfg.ringSize < (s.put - s.get).toNat →
      exec .softb s = .next { s with
        softPend := false
        get := s.put - BitVec.ofNat 32 s.cfg.ringSize
        drN := BitVec.ofNat 32 s.cfg.ringSize
        drActive := true })

/-- R106, R120: DRAIN_NEXT reads the slot of GET, advances GET and DR_N, ends the drain at the last
byte, and runs the one instruction that the byte is in the decoder's state, which always completes. -/
def Obligations.SoftnRunsTheByteItReads : Prop :=
  ∀ (s : State), s.cfg.wf → s.fault = none → s.drActive = true →
    (exec .softn s =
      exec (decodeByte s.cfg s.decState (s.ring.getD (s.get &&& ringMask s.cfg).toNat 0))
        { s with get := s.get + 1, drN := s.drN - 1, drActive := decide (s.drN ≠ 1) }) ∧
    ∃ t, exec .softn s = .next t ∧ t.fault = none

/-- An instance of R107: bytes pushed into an empty ring, at most RING_SIZE of them, are exactly what
the next drain counts and finds, in push order. -/
def Obligations.DrainFindsExactlyThePushedBytes : Prop :=
  ∀ (s : State) (xs : List Byte),
    s.cfg.wf → s.ring.length = s.cfg.ringSize → s.fault = none → s.irqEn = true →
    s.drActive = false → s.put = s.get → s.linkRxq = xs.map (fun b => (b, false)) →
    xs ≠ [] → xs.length ≤ s.cfg.ringSize →
      ∃ t, execAll (xs.map (fun _ => .irqrx) ++ [.softb]) s = .next t ∧
        t.get = s.get ∧ t.drActive = true ∧ t.drN.toNat = xs.length ∧ t.linkRxq = [] ∧
        ∀ (k : Nat) (hk : k < xs.length), t.ringRead (t.get + BitVec.ofNat 32 k) = xs[k]

/-- An instance of R108: of more than RING_SIZE bytes pushed into an empty ring, the next drain counts
and finds the most recent RING_SIZE, in push order. -/
def Obligations.OverflowKeepsTheNewestBytes : Prop :=
  ∀ (s : State) (xs : List Byte),
    s.cfg.wf → s.ring.length = s.cfg.ringSize → s.fault = none → s.irqEn = true →
    s.drActive = false → s.put = s.get → s.linkRxq = xs.map (fun b => (b, false)) →
    s.cfg.ringSize < xs.length → xs.length < 2 ^ 32 →
      ∃ t, execAll (xs.map (fun _ => .irqrx) ++ [.softb]) s = .next t ∧
        t.get = s.get + BitVec.ofNat 32 (xs.length - s.cfg.ringSize) ∧ t.drActive = true ∧
        t.drN.toNat = s.cfg.ringSize ∧
        ∀ k < s.cfg.ringSize,
          xs[xs.length - s.cfg.ringSize + k]? = some (t.ringRead (t.get + BitVec.ofNat 32 k))

/-! ### The decoder -/

/-- R122: a known header starts a package; each of the six header classes. -/
def Obligations.HeadersStartAPackage : Prop :=
  ∀ (s : State) (h : Byte) (len : BitVec 4), s.fault = none → s.decState = .idle →
    let started (k : Kind) : Out := .next { s with
      pkg := s.pkg.set 0 h, pkgIdx := 1, pkgKind := k, pkgLen := len, decState := .assembling }
    exec (.hdrMem h len) s = started .mem ∧ exec (.hdrAms h len) s = started .ams ∧
    exec (.hdrRms h len) s = started .rms ∧ exec (.hdrClk h len) s = started .clk ∧
    exec (.hdrJoy0 h len) s = started .joy0 ∧ exec (.hdrJoy1 h len) s = started .joy1

/-- R125, R224: an unknown header is reported once, and nothing else changes. -/
def Obligations.UnknownHeaderIsReported : Prop :=
  ∀ (s : State) (h : Byte), s.fault = none → s.decState = .idle →
    exec (.hdrUnknown h) s = .next { s with history := s.history ++ [.diag .unknownHeader h] }

/-- R123, R124, R150, R151: a payload byte is stored, whatever its value; the byte that reaches PKG_LEN
dispatches the package, header first, to the pointer port or nowhere, and the decoder is IDLE. -/
def Obligations.PayloadIsStoredAndCompletes : Prop :=
  ∀ (s : State) (b : Byte), s.Inv → s.fault = none → s.decState = .assembling →
    (s.pkgIdx.toNat + 1 < s.pkgLen.toNat →
      exec (.payload b) s = .next { s with
        pkg := s.pkg.setIfInBounds s.pkgIdx.toNat b, pkgIdx := s.pkgIdx + 1 }) ∧
    (s.pkgIdx.toNat + 1 = s.pkgLen.toNat → s.pkgKind ≠ .mem → s.pkgKind ≠ .clk →
      exec (.payload b) s = .next { s with
        pkg := s.pkg.setIfInBounds s.pkgIdx.toNat b
        history := s.history ++
          [.ptr s.pkgKind s.pkgLen ((s.pkg.setIfInBounds s.pkgIdx.toNat b).toList.take s.pkgLen.toNat)]
        decState := .idle
        pkgIdx := 0 }) ∧
    (s.pkgIdx.toNat + 1 = s.pkgLen.toNat → s.pkgKind = .mem ∨ s.pkgKind = .clk →
      exec (.payload b) s = .next { s with
        pkg := s.pkg.setIfInBounds s.pkgIdx.toNat b, decState := .idle, pkgIdx := 0 })

/-- R128: a header with a table entry (kind, len), then exactly len - 1 bytes of any value, give exactly
one dispatch of the accumulated bytes in arrival order (no output for MEM and CLK, R151), and IDLE. -/
def Obligations.PackageIsDispatchedWhole : Prop :=
  ∀ (s : State) (h : Byte) (e : HdrEntry) (xs : List Byte),
    s.cfg.wf → s.fault = none → s.decState = .idle → isHeader h = true →
    hdrLookup s.cfg h = some e → xs.length + 1 = e.len.toNat →
      ∃ t, execAll (decodeByte s.cfg .idle h :: xs.map .payload) s = .next t ∧
        t.decState = .idle ∧ t.pkgIdx = 0 ∧ t.pkg.toList.take e.len.toNat = h :: xs ∧
        t.history = s.history ++
          (if e.kind = .mem ∨ e.kind = .clk then [] else [.ptr e.kind e.len (h :: xs)])

/-- R129: a package is dispatched only by the byte that makes PKG_IDX reach PKG_LEN, with PKG_LEN
bytes: never a short package. -/
def Obligations.NoShortPackageIsDispatched : Prop :=
  ∀ (i : Instr) (s t : State) (k : Kind) (len : BitVec 4) (bytes : List Byte),
    exec i s = .next t → .ptr k len bytes ∈ emitted s t →
      s.decState = .assembling ∧ s.pkgIdx + 1 = s.pkgLen ∧ len = s.pkgLen ∧ k = s.pkgKind ∧
        bytes.length = len.toNat ∧ emitted s t = [.ptr k len bytes] ∧
        t.decState = .idle ∧ t.pkgIdx = 0

/-! ### The dispatcher -/

/-- R141: in MODE = EVENT with room in the event queue a key becomes one event record, DOWN = 1 and
UP = 0, with any TIME; MODS is not written. (The model's own fields of TIME, log 7, may change.) -/
def Obligations.EventModeRecordsTheKey : Prop :=
  ∀ (s : State) (sc : ScanCode),
    s.fault = none → s.decState = .idle → s.mode = 1 → s.evqFull = false →
      ∃ (time : Nat) (t u : State),
        exec (.keyPress sc) s = .next t ∧
        t = { s with
          history := s.history ++ [.ev sc 1 time], timeIn := t.timeIn, draws := t.draws } ∧
        exec (.keyRelease sc) s = .next u ∧
        u = { s with
          history := s.history ++ [.ev sc 0 time], timeIn := u.timeIn, draws := u.draws }

/-- R142, R226: with the event queue full the event is dropped, with one diagnostic. -/
def Obligations.FullEventQueueDropsTheKey : Prop :=
  ∀ (s : State) (sc : ScanCode),
    s.fault = none → s.decState = .idle → s.mode = 1 → s.evqFull = true →
      exec (.keyPress sc) s =
        .next { s with history := s.history ++ [.diag .evqFull (sc.setWidth 8)] } ∧
      exec (.keyRelease sc) s =
        .next { s with history := s.history ++ [.diag .evqFull (sc.setWidth 8)] }

/-- R143: in MODE = PASS with the generic sink attached a key goes to it, modifiers included. -/
def Obligations.GenericSinkTakesTheKey : Prop :=
  ∀ (s : State) (sc : ScanCode),
    s.fault = none → s.decState = .idle → s.mode = 0 → s.genPresent = true →
      exec (.keyPress sc) s =
        .next { s with history := s.history ++ [.gen s.cfg.genHandle .down sc] } ∧
      exec (.keyRelease sc) s =
        .next { s with history := s.history ++ [.gen s.cfg.genHandle .up sc] }

/-- R147: on the terminal path a held modifier's press sets exactly its MODS bit and its release clears
exactly that bit; nothing is emitted and nothing else changes. -/
def Obligations.HeldModifierSetsAndClearsItsBit : Prop :=
  ∀ (s : State) (sc : ScanCode) (k : Nat),
    s.cfg.wf → s.fault = none → s.decState = .idle → s.TerminalPath →
    ((k = 0 ∧ sc = s.cfg.lshiftSc) ∨ (k = 1 ∧ sc = s.cfg.rshiftSc) ∨
     (k = 2 ∧ sc = s.cfg.ctrlSc) ∨ (k = 3 ∧ sc = s.cfg.altSc)) →
      ∃ down up : BitVec 5,
        exec (.keyPress sc) s = .next { s with mods := down } ∧
        exec (.keyRelease sc) s = .next { s with mods := up } ∧
        (∀ j < 5, down.getLsbD j = if j = k then true else s.mods.getLsbD j) ∧
        (∀ j < 5, up.getLsbD j = if j = k then false else s.mods.getLsbD j)

/-- R148: on the terminal path caps-lock toggles CAPS on press; its release changes nothing. -/
def Obligations.CapsLockTogglesOnPress : Prop :=
  ∀ (s : State), s.cfg.wf → s.fault = none → s.decState = .idle → s.TerminalPath →
    exec (.keyPress s.cfg.capsSc) s = .next { s with mods := s.mods ^^^ 0b10000#5 } ∧
    exec (.keyRelease s.cfg.capsSc) s = .next s

/-- R144, R149: on the terminal path any other key is forwarded as the raw code, MODS unchanged. -/
def Obligations.OtherKeysReachTheTerminal : Prop :=
  ∀ (s : State) (sc : ScanCode),
    s.fault = none → s.decState = .idle → s.TerminalPath → sc ∉ s.cfg.modCodes →
      exec (.keyPress sc) s =
        .next { s with history := s.history ++ [.term (BitVec.ofNat 8 sc.toNat)] } ∧
      exec (.keyRelease sc) s =
        .next { s with history := s.history ++ [.term (BitVec.ofNat 8 (0x80 + sc.toNat))] }

/-- R145: a key emits exactly one transaction, on the one port that MODE, GEN_PRESENT and EVQ_FULL
choose, or nothing when the modifier tracker consumes it, which it does only on the terminal path and
for a modifier; and it writes no register but MODS (TIME's fields are log 7's). -/
def Obligations.EveryKeyTakesExactlyOnePath : Prop :=
  ∀ (i : Instr) (sc : ScanCode) (s t : State),
    (i = .keyPress sc ∨ i = .keyRelease sc) → exec i s = .next t →
      t = { s with history := t.history, mods := t.mods, timeIn := t.timeIn, draws := t.draws } ∧
      ((t.history = s.history ∧ s.TerminalPath ∧ sc ∈ s.cfg.modCodes) ∨
       ∃ x, t.history = s.history ++ [x] ∧ t.mods = s.mods ∧
        ((s.mode = 1 ∧ s.evqFull = false ∧ ∃ v time, x = .ev sc v time) ∨
         (s.mode = 1 ∧ s.evqFull = true ∧ ∃ d, x = .diag .evqFull d) ∨
         (s.mode ≠ 1 ∧ s.genPresent = true ∧ s.mode ≠ 2 ∧ ∃ k, x = .gen s.cfg.genHandle k sc) ∨
         (s.TerminalPath ∧ ∃ c, x = .term c)))

/-- R221: a diagnostic is emitted only for an unknown header, with the header byte, and for a key that
finds the event queue full in MODE = EVENT, with its 7-bit scan code. -/
def Obligations.OnlyTwoDiagnosticsAreEmitted : Prop :=
  ∀ (i : Instr) (s t : State) (c : DiagCode) (d : Byte),
    wellFormed s.cfg s.nthreads s.decState i = true → exec i s = .next t →
    .diag c d ∈ emitted s t →
      s.decState = .idle ∧ emitted s t = [.diag c d] ∧
      ((c = .unknownHeader ∧ 0xF6 ≤ d.toNat ∧ hdrLookup s.cfg d = none) ∨
       (c = .evqFull ∧ d.toNat < 0x80 ∧ s.mode = 1 ∧ s.evqFull = true))

/-- The writers of MODS (R30, R205, R207): apart from REENABLE and RESET, an instruction changes MODS
only as a key on the terminal path, never in MODE = EVENT and never on the generic path. -/
def Obligations.ModsChangeOnlyOnTheTerminalPath : Prop :=
  ∀ (i : Instr) (s t : State),
    exec i s = .next t → t.mods ≠ s.mods → i ≠ .reen → i ≠ .reset →
      s.TerminalPath ∧ s.decState = .idle ∧
        (i = .softn ∨ ∃ sc, i = .keyPress sc ∨ i = .keyRelease sc)

/-! ### Host control -/

/-- R201, R202: a legal write of MODE or GEN_PRESENT writes that register and nothing else. -/
def Obligations.CrwWritesModeAndGenPresent : Prop :=
  ∀ (s : State) (th : Thread) (v : BitVec 6), s.fault = none → s.ThreadAt 0 .idle th →
    (v.toNat ≤ 2 → exec (.crw 0 v) s = .next { s with mode := BitVec.ofNat 2 v.toNat }) ∧
    (v.toNat ≤ 1 → exec (.crw 1 v) s = .next { s with genPresent := decide (v = 1) })

/-- R203: IRQ_EN is cleared unless a `send` is outstanding or a thread is in ACQ, and set unless a
thread is in POLL; otherwise the write faults, with such a thread as its info (log 10). -/
def Obligations.CrwWritesIrqEnUnlessACallForbids : Prop :=
  ∀ (s : State) (th : Thread), s.fault = none → s.ThreadAt 0 .idle th →
    (s.txBusy = false → (∀ u ∈ s.threads, u.state ≠ .acq) →
      exec (.crw 2 0) s = .next { s with irqEn := false }) ∧
    (s.txBusy = true ∨ (∃ u ∈ s.threads, u.state = .acq) →
      ∃ u, exec (.crw 2 0) s = .next { s with fault := some ⟨.irqOffBusy, u⟩ } ∧
        ((∃ w ∈ s.threads, w.state = .acq) → ∃ w, s.ThreadAt u .acq w)) ∧
    ((∀ u ∈ s.threads, u.state ≠ .poll) →
      exec (.crw 2 1) s = .next { s with irqEn := true }) ∧
    ((∃ u ∈ s.threads, u.state = .poll) →
      ∃ u w, exec (.crw 2 1) s = .next { s with fault := some ⟨.irqOnPoll, u⟩ } ∧
        s.ThreadAt u .poll w)

/-- R200, R231: the illegal writes, in the order the rule checks them, for the word CRW and for any
thread, register number and value. -/
def Obligations.IllegalRegisterWritesFault : Prop :=
  (∀ (s : State) (t v : Nat) (th : Thread), s.fault = none → s.ThreadAt t .idle th →
    (3 < v → perform (.crWrite t 0 v) s = .next { s with fault := some ⟨.crWrite, 0⟩ }) ∧
    perform (.crWrite t 0 3) s = .next { s with fault := some ⟨.modeReserved, 0⟩ } ∧
    (1 < v → perform (.crWrite t 1 v) s = .next { s with fault := some ⟨.crWrite, 1⟩ }) ∧
    (1 < v → perform (.crWrite t 2 v) s = .next { s with fault := some ⟨.crWrite, 2⟩ }) ∧
    (∀ r, 2 < r → perform (.crWrite t r v) s = .next { s with fault := some ⟨.crWrite, r⟩ })) ∧
  (∀ (s : State) (r : BitVec 2) (v : BitVec 6),
    exec (.crw r v) s = perform (.crWrite 0 r.toNat v.toNat) s)

/-- R204, R45: a read returns the register, zero-extended to 8 bits, and changes nothing; a register
number above 3 faults. The word CRR is the read by T0. -/
def Obligations.ReadsReturnTheRegister : Prop :=
  (∀ (s : State) (th : Thread) (r : BitVec 2), s.fault = none → s.ThreadAt 0 .idle th →
    ∃ v : Byte, exec (.crr r) s = .next { s with
        history := s.history ++ [.ret 0 .crRead (.value v)] } ∧
      v.toNat = (if r = 0 then s.mode.toNat else if r = 1 then s.genPresent.toNat
        else if r = 2 then s.irqEn.toNat else s.mods.toNat)) ∧
  (∀ (s : State) (th : Thread) (t r : Nat), s.fault = none → s.ThreadAt t .idle th →
    (r ≤ 3 → ∃ v : Byte, s.crValue r = some v ∧ perform (.crRead t r) s = .next { s with
      history := s.history ++ [.ret t .crRead (.value v)] }) ∧
    (3 < r → perform (.crRead t r) s = .next { s with fault := some ⟨.crWrite, r⟩ }))

/-- R205: REENABLE clears all five MODS flags and nothing else. -/
def Obligations.ReenClearsOnlyMods : Prop :=
  ∀ (s : State) (th : Thread), s.fault = none → s.ThreadAt 0 .idle th →
    exec .reen s = .next { s with mods := 0 }

/-- R250, R47: RESET, while no other thread is in a call, gives the reset values; the registers the
rule calls unspecified are not constrained beyond their width (log 6), and the environment, the
history and FAULT stay. While another thread is in a call it faults, and names such a thread (log 10). -/
def Obligations.ResetGivesTheResetValues : Prop :=
  ∀ (s : State) (th : Thread), s.fault = none → s.ThreadAt 0 .idle th →
    ((∀ u ∈ s.threads, u.state = .idle) →
      ∃ t, exec .reset s = .next t ∧
        t = { State.powerOn s.cfg s.nthreads s.txrdy s.evqFull with
          ring := t.ring, pkg := t.pkg, pkgKind := t.pkgKind, pkgLen := t.pkgLen
          txCursor := t.txCursor, threads := t.threads
          linkRxq := s.linkRxq, mem := s.mem, history := s.history, fault := s.fault
          sched := s.sched, timeIn := s.timeIn, draws := t.draws } ∧
        t.ring.length = s.cfg.ringSize ∧ t.threads.length = s.threads.length ∧
        ∀ u ∈ t.threads, u.state = .idle ∧ u.len = 0 ∧ u.idx = 0 ∧ u.spin = 0) ∧
    (∀ (u : Nat) (w : Thread), u ≠ 0 → s.threads[u]? = some w → w.state ≠ .idle →
      ∃ v w', exec .reset s = .next { s with fault := some ⟨.resetBusy, v⟩ } ∧
        v ≠ 0 ∧ s.threads[v]? = some w' ∧ w'.state ≠ .idle)

/-! ### The output channel -/

/-- R170, R231: `send` checks the length, the range (without wrap) and IRQ_EN, in this order, and else
puts the thread in ACQ. -/
def Obligations.SendCallChecksThenWaitsToAcquire : Prop :=
  ∀ (s : State) (t base : Nat) (len : Count) (th : Thread),
    s.fault = none → s.ThreadAt t .idle th → base < 2 ^ s.cfg.addrW →
    (len = 0 → perform (.send t base len) s = .next { s with fault := some ⟨.sendZeroLen, t⟩ }) ∧
    (len ≠ 0 → 2 ^ s.cfg.addrW < base + len.toNat →
      perform (.send t base len) s = .next { s with fault := some ⟨.cmdRange, t⟩ }) ∧
    (len ≠ 0 → base + len.toNat ≤ 2 ^ s.cfg.addrW → s.irqEn = false →
      perform (.send t base len) s = .next { s with fault := some ⟨.sendIrqOff, t⟩ }) ∧
    (len ≠ 0 → base + len.toNat ≤ 2 ^ s.cfg.addrW → s.irqEn = true →
      perform (.send t base len) s = .next { s with
        threads := s.threads.set t { th with base := base, len := len, state := .acq } })

/-- The word SEND t, len (R92) is `send(BUF_t, len)` of thread t in every state, its faults and its
blocking among it (44_output.md section 1), and completes where the checks pass. -/
def Obligations.SendWordCallsSend : Prop :=
  (∀ (s : State) (t len : BitVec 4),
    exec (.send t len) s = perform (.send t.toNat (s.bufOf t.toNat) (len.setWidth 32)) s) ∧
  (∀ (s : State) (t len : BitVec 4) (th : Thread),
    s.fault = none → s.ThreadAt t.toNat .idle th →
    let base := s.cfg.bufs.getD t.toNat 0
    base + len.toNat ≤ 2 ^ s.cfg.addrW → len ≠ 0 → s.irqEn = true →
      exec (.send t len) s = .next { s with
        threads := s.threads.set t.toNat
          { th with base := base, len := BitVec.ofNat 32 len.toNat, state := .acq } })

/-- R172, R173: SEND_ACQUIRE with the link not ready sends nothing; with the link ready it sends the
first byte in the same step, and a one-byte command completes there. -/
def Obligations.AcquireStartsTheTransmission : Prop :=
  ∀ (s : State) (t : BitVec 4) (th : Thread),
    s.Inv → s.fault = none → s.ThreadAt t.toNat .acq th → s.txBusy = false →
    (s.txrdy = false →
      exec (.acq t) s = .next { s with
        txBusy := true, txCursor := th.base, txRem := th.len
        threads := s.threads.set t.toNat { th with state := .wait } }) ∧
    (s.txrdy = true →
      exec (.acq t) s = .next { s with
        txBusy := decide (th.len ≠ 1)
        txCursor := (th.base + 1) % 2 ^ s.cfg.addrW
        txRem := th.len - 1
        threads := s.threads.set t.toNat { th with state := .wait }
        history := s.history ++ [.linkTx (Memory.read s.mem th.base)]
        txrdy := false })

/-- R174: SEND_RETURN returns OK once no transmission is outstanding. -/
def Obligations.SretReturnsOk : Prop :=
  ∀ (s : State) (t : BitVec 4) (th : Thread),
    s.fault = none → s.ThreadAt t.toNat .wait th → s.txBusy = false →
      exec (.sret t) s = .next { s with
        history := s.history ++ [.ret t.toNat .send .ok]
        threads := s.threads.set t.toNat { th with state := .idle } }

/-- R176, R177: TX_STEP sends the byte at TX_CURSOR; the last byte clears TX_BUSY in the same step. -/
def Obligations.TxiSendsTheNextByte : Prop :=
  ∀ (s : State), s.Inv → s.fault = none → s.irqEn = true → s.txrdy = true → s.txBusy = true →
    exec .txi s = .next { s with
      history := s.history ++ [.linkTx (Memory.read s.mem s.txCursor)]
      txrdy := false
      txCursor := (s.txCursor + 1) % 2 ^ s.cfg.addrW
      txRem := s.txRem - 1
      txBusy := decide (s.txRem ≠ 1) }

/-- R180, R231: `send_polling` checks the length, the range, IRQ_EN and the other calls, in this order,
and else puts the thread in POLL. -/
def Obligations.SendPollingChecksThenPolls : Prop :=
  ∀ (s : State) (t base : Nat) (len : Count) (th : Thread),
    s.fault = none → s.ThreadAt t .idle th → base < 2 ^ s.cfg.addrW →
    let other := s.txBusy = true ∨ ∃ u w, u ≠ t ∧ s.threads[u]? = some w ∧ w.state ≠ .idle
    (len = 0 →
      perform (.sendPolling t base len) s = .next { s with fault := some ⟨.sendZeroLen, t⟩ }) ∧
    (len ≠ 0 → 2 ^ s.cfg.addrW < base + len.toNat →
      perform (.sendPolling t base len) s = .next { s with fault := some ⟨.cmdRange, t⟩ }) ∧
    (len ≠ 0 → base + len.toNat ≤ 2 ^ s.cfg.addrW → s.irqEn = true →
      perform (.sendPolling t base len) s = .next { s with fault := some ⟨.pollIrqOn, t⟩ }) ∧
    (len ≠ 0 → base + len.toNat ≤ 2 ^ s.cfg.addrW → s.irqEn = false → other →
      perform (.sendPolling t base len) s = .next { s with fault := some ⟨.pollBusy, t⟩ }) ∧
    (len ≠ 0 → base + len.toNat ≤ 2 ^ s.cfg.addrW → s.irqEn = false → ¬ other →
      perform (.sendPolling t base len) s = .next { s with
        threads := s.threads.set t
          { th with base := base, len := len, idx := 0, spin := 0, state := .poll } })

/-- The word PSEND t, len (R92) is `send_polling(BUF_t, len)` of thread t in every state, its faults and
its blocking among it (44_output.md section 2), and completes where the checks pass. -/
def Obligations.PsendWordCallsSendPolling : Prop :=
  (∀ (s : State) (t len : BitVec 4),
    exec (.psend t len) s = perform (.sendPolling t.toNat (s.bufOf t.toNat) (len.setWidth 32)) s) ∧
  (∀ (s : State) (t len : BitVec 4) (th : Thread),
    s.fault = none → s.threads[t.toNat]? = some th → (∀ u ∈ s.threads, u.state = .idle) →
    let base := s.cfg.bufs.getD t.toNat 0
    base + len.toNat ≤ 2 ^ s.cfg.addrW → len ≠ 0 → s.irqEn = false → s.txBusy = false →
      exec (.psend t len) s = .next { s with
        threads := s.threads.set t.toNat
          { th with base := base, len := BitVec.ofNat 32 len.toNat, idx := 0, spin := 0,
                    state := .poll } })

/-- R181, R182, R183: POLL_STEP with the link ready sends the next byte and returns OK after the last;
with the link not ready it counts a failed check and returns FAIL at POLL_TIMEOUT of them in a row.
(What the count does for a POLL_TIMEOUT of 2^32 or more is log 24's.) -/
def Obligations.PstepSendsOrCountsAFailedCheck : Prop :=
  ∀ (s : State) (t : BitVec 4) (th : Thread),
    s.Inv → s.fault = none → s.ThreadAt t.toNat .poll th →
    let byte := Memory.read s.mem (th.base + th.idx.toNat)
    (s.txrdy = true → th.idx.toNat + 1 < th.len.toNat →
      exec (.pstep t) s = .next { s with
        history := s.history ++ [.linkTx byte]
        txrdy := false
        threads := s.threads.set t.toNat { th with idx := th.idx + 1, spin := 0 } }) ∧
    (s.txrdy = true → th.idx.toNat + 1 = th.len.toNat →
      exec (.pstep t) s = .next { s with
        history := s.history ++ [.linkTx byte, .ret t.toNat .sendPoll .ok]
        txrdy := false
        threads := s.threads.set t.toNat { th with idx := th.idx + 1, spin := 0, state := .idle } }) ∧
    (s.txrdy = false → (th.spin + 1).toNat ≠ s.cfg.pollTimeout →
      exec (.pstep t) s = .next { s with
        threads := s.threads.set t.toNat { th with spin := th.spin + 1 } }) ∧
    (s.txrdy = false → (th.spin + 1).toNat = s.cfg.pollTimeout →
      exec (.pstep t) s = .next { s with
        history := s.history ++ [.ret t.toNat .sendPoll .fail]
        threads := s.threads.set t.toNat { th with spin := th.spin + 1, state := .idle } })

/-- R184: while a thread is in POLL, a byte goes out only by that thread's own POLL_STEP, be it the word
PSTEP or the same step of a thread that no word names (log 15). -/
def Obligations.PolledSendIsAloneOnTheLink : Prop :=
  ∀ (s t : State) (u : Nat) (th : Thread) (b : Byte),
    s.Inv → s.ThreadAt u .poll th → .linkTx b ∈ emitted s t →
      (∀ i : Instr, exec i s = .next t → ∃ v : BitVec 4, i = .pstep v ∧ v.toNat = u) ∧
      (∀ a : Action, perform a s = .next t → a = .pollStep u)

/-- R41: LINK_TX is emitted only when TXRDY = 1, TXRDY becomes 0 in the same step, and it becomes 0 in
no other way, by an instruction or by a schedule entry that is no word (log 15). -/
def Obligations.LinkTxNeedsAndClearsTxrdy : Prop :=
  ∀ (s t : State), (∃ i : Instr, exec i s = .next t) ∨ (∃ a : Action, perform a s = .next t) →
    ((∃ b, .linkTx b ∈ emitted s t) → s.txrdy = true ∧ t.txrdy = false) ∧
    (s.txrdy = true → t.txrdy = false → ∃ b, .linkTx b ∈ emitted s t)

/-! ### The link and the environment -/

/-- R40, R41, R42, R93: LINK appends a pair to its queue whatever else the block does, LINK_TX_DONE
raises TXRDY when it is 0, and EVQF sets the level EVQ_FULL always. -/
def Obligations.LinkAndEnvironmentDriveTheirInputs : Prop :=
  ∀ (s : State) (b : Byte) (v : Bool), s.fault = none →
    exec (.rx b) s = .next { s with linkRxq := s.linkRxq ++ [(b, false)] } ∧
    exec (.rxe b) s = .next { s with linkRxq := s.linkRxq ++ [(b, true)] } ∧
    (s.txrdy = false → exec .lrdy s = .next { s with txrdy := true }) ∧
    exec (.evqf v) s = .next { s with evqFull := v }

/-- The environment's requests of the model (R42, R43, R262; log 7, log 11): a supplied TIME is stored,
and is what the next event record carries; a caller's store changes one byte of caller memory and keeps
every other. -/
def Obligations.EnvironmentRequestsChangeOneInput : Prop :=
  (∀ (s : State) (time : Nat), s.fault = none →
    perform (.supplyTime time) s = .next { s with timeIn := some time }) ∧
  (∀ (s : State) (a : Nat) (b : Byte), s.MemInv → s.fault = none → a < 2 ^ s.cfg.addrW →
    (∀ th ∈ s.threads, th.state ≠ .idle → a < th.base ∨ th.base + th.len.toNat ≤ a) →
      ∃ m, perform (.callerStore a b) s = .next { s with mem := m } ∧ Memory.wf m ∧
        Memory.read m a = b ∧ ∀ a', a' ≠ a → Memory.read m a' = Memory.read s.mem a') ∧
  (∀ (s : State) (sc : ScanCode) (time : Nat),
    s.fault = none → s.decState = .idle → s.mode = 1 → s.evqFull = false → s.timeIn = some time →
      ∃ t, exec (.keyPress sc) s = .next t ∧ t.history = s.history ++ [.ev sc 1 time] ∧
        t.timeIn = none)

/-- R3, R209: a bell request, a console read and a register access by address are refused by name. -/
def Obligations.RequestsOutOfScopeAreRefused : Prop :=
  ∀ (s : State) (a : Nat), s.fault = none →
    perform .bell s = .refused .bell ∧ perform .consoleReadKey s = .refused .consoleReadKey ∧
    perform (.registerAccess a) s = .refused .registerAccess

/-! ### The whole machine -/

/-- R69: only IRQ writes PUT, RING and the set of SOFT_PEND, and only SOFT writes GET, DR_*, DEC_STATE,
PKG_* and PKG, apart from RESET; MODS is written by SOFT, REENABLE and RESET. No step of a caller
thread or of the environment with wider operands writes any of them either. -/
def Obligations.SingleWritersOfTheRingAndTheDecoder : Prop :=
  (∀ (i : Instr) (s t : State), exec i s = .next t → i ≠ .reset →
    (i ≠ .irqrx →
      t.put = s.put ∧ t.ring = s.ring ∧ (t.softPend = true → s.softPend = true)) ∧
    (isSoftWord i = false →
      t.get = s.get ∧ t.drActive = s.drActive ∧ t.drN = s.drN ∧ t.decState = s.decState ∧
      t.pkgKind = s.pkgKind ∧ t.pkgLen = s.pkgLen ∧ t.pkgIdx = s.pkgIdx ∧ t.pkg = s.pkg ∧
      (i ≠ .reen → t.mods = s.mods))) ∧
  (∀ (a : Action) (s t : State), perform a s = .next t → (∀ u, a ≠ .reset u) →
    t.put = s.put ∧ t.ring = s.ring ∧ t.softPend = s.softPend ∧
    t.get = s.get ∧ t.drActive = s.drActive ∧ t.drN = s.drN ∧ t.decState = s.decState ∧
    t.pkgKind = s.pkgKind ∧ t.pkgLen = s.pkgLen ∧ t.pkgIdx = s.pkgIdx ∧ t.pkg = s.pkg ∧
    ((∀ u, a ≠ .reenable u) → t.mods = s.mods))

/-- R236: MODE, GEN_PRESENT and IRQ_EN are written by CRWRITE and RESET only, and the parameters,
caller memory and the link's queue never by the block (R43, R254). The same of the schedule entries that
are no words (log 15), among which a caller's own store writes caller memory (log 11). -/
def Obligations.ControlStateHasItsWriters : Prop :=
  (∀ (i : Instr) (s t : State), exec i s = .next t →
    ((∀ r v, i ≠ .crw r v) → i ≠ .reset →
      t.mode = s.mode ∧ t.genPresent = s.genPresent ∧ t.irqEn = s.irqEn) ∧
    t.cfg = s.cfg ∧ t.mem = s.mem ∧ t.nthreads = s.nthreads ∧
    ((∀ b, i ≠ .rx b ∧ i ≠ .rxe b) → i ≠ .irqrx → t.linkRxq = s.linkRxq)) ∧
  (∀ (a : Action) (s t : State), perform a s = .next t →
    ((∀ u r v, a ≠ .crWrite u r v) → (∀ u, a ≠ .reset u) →
      t.mode = s.mode ∧ t.genPresent = s.genPresent ∧ t.irqEn = s.irqEn) ∧
    t.cfg = s.cfg ∧ t.nthreads = s.nthreads ∧ t.linkRxq = s.linkRxq ∧
    ((∀ x b, a ≠ .callerStore x b) → t.mem = s.mem))

/-- The transmitter neither writes nor reads the registers of the ring, the decoder and the dispatcher,
nor they the transmitter's (00_scope.md section 1, 60_exceptions.md section 7). Writes: each side leaves
the other's registers as they are. Reads: from two states that agree on one side's registers and inputs,
a step of that side has the same outcome, whatever the other side holds. IRQ_EN, FAULT and the parameters
are read by both. -/
def Obligations.TransmitterSharesNoStateWithTheReceiver : Prop :=
  (∀ (i : Instr) (s t : State), exec i s = .next t →
    (isTransmitWord i = true →
      t = { s with
        txBusy := t.txBusy, txCursor := t.txCursor, txRem := t.txRem, threads := t.threads
        txrdy := t.txrdy, history := t.history, fault := t.fault }) ∧
    (i = .irqrx ∨ isSoftWord i = true →
      t.txBusy = s.txBusy ∧ t.txCursor = s.txCursor ∧ t.txRem = s.txRem ∧ t.threads = s.threads ∧
      t.txrdy = s.txrdy ∧ t.fault = s.fault)) ∧
  (∀ (a : Action) (s t : State), perform a s = .next t → isTransmitAction a = true →
    t = { s with
      txBusy := t.txBusy, txCursor := t.txCursor, txRem := t.txRem, threads := t.threads
      txrdy := t.txrdy, history := t.history, fault := t.fault }) ∧
  (∀ (s u : State), s.SameTransmitter u →
    (∀ i : Instr, isTransmitWord i = true → exec i u = carried (u.withTransmitter s) (exec i s)) ∧
    (∀ a : Action, isTransmitAction a = true →
      perform a u = carried (u.withTransmitter s) (perform a s))) ∧
  (∀ (s u : State), s.SameReceiver u → ∀ i : Instr, i = .irqrx ∨ isSoftWord i = true →
    exec i u = carried (u.withReceiver s) (exec i s))

/-- R10: the event history only grows, in issue order, by at most two transactions a step. -/
def Obligations.HistoryOnlyGrows : Prop :=
  ∀ (s t : State), step s = .next t → ∃ l, t.history = s.history ++ l ∧ l.length ≤ 2

/-- The power-on state for any parameters within their bounds satisfies the invariant, and so does
State.reset (10_state.md section 7; the parameters and levels of State.reset are log 3 and log 4). -/
def Obligations.PowerOnStateSatisfiesTheInvariant : Prop :=
  (∀ (p : Params) (n : Nat) (txrdy evqFull : Bool), p.wf → 1 ≤ n →
    (State.powerOn p n txrdy evqFull).Inv) ∧
  State.reset.Inv

/-- R39, R208: every step of the machine keeps the invariant, from every state that satisfies it,
whatever is scheduled. (R39.2's set of lengths is that of the default HDR_TABLE; log 25.) -/
def Obligations.EveryStepKeepsTheInvariant : Prop :=
  ∀ (s t : State), s.Inv → step s = .next t → t.Inv

/-- R252: in the power-on state only LINK's and the environment's steps and the callers' calls are
enabled: IRQ is disabled, SOFT has nothing pending, and no thread is in a call. -/
def Obligations.PowerOnStateEnablesOnlyInputsAndCalls : Prop :=
  ∀ (p : Params) (n : Nat) (txrdy evqFull : Bool) (i : Instr),
    1 ≤ n → isStimulusWord i = true → wellFormed p n .idle i = true →
      (exec i (State.powerOn p n txrdy evqFull) = .refused .blocked ↔
        (i = .irqrx ∨ i = .softb ∨ i = .softn ∨ i = .txi ∨ (i = .lrdy ∧ txrdy = true) ∨
         ∃ t, i = .acq t ∨ i = .sret t ∨ i = .pstep t)) ∧
      (exec i (State.powerOn p n txrdy evqFull) ≠ .refused .blocked →
        ∃ t, exec i (State.powerOn p n txrdy evqFull) = .next t)

/-- R47, R251, R253: what power-on leaves, for any parameters, threads and levels of the environment. -/
def Obligations.PowerOnGivesTheResetValues : Prop :=
  ∀ (p : Params) (n : Nat) (txrdy evqFull : Bool),
    let s := State.powerOn p n txrdy evqFull
    s.put = 0 ∧ s.get = 0 ∧ s.softPend = false ∧ s.drActive = false ∧ s.drN = 0 ∧
    s.decState = .idle ∧ s.pkgIdx = 0 ∧ s.mods = 0 ∧ s.mode = 0 ∧ s.genPresent = false ∧
    s.irqEn = false ∧ s.txBusy = false ∧ s.txRem = 0 ∧ s.threads.length = n ∧
    (∀ th ∈ s.threads, th.state = .idle ∧ th.len = 0 ∧ th.idx = 0 ∧ th.spin = 0) ∧
    s.fault = none ∧ s.linkRxq = [] ∧ s.history = [] ∧ s.txrdy = txrdy ∧ s.evqFull = evqFull

/-- The bytes a `send` puts on the link are its buffer, in address order (R178, R175). Whatever else runs
between, the byte of a TX_STEP is the next of the buffer of a caller in WAIT, with the bytes after it left
in TX_REM; and where LINK is ready at once after each byte, the whole call emits exactly its `len` bytes
and then returns OK. -/
def Obligations.SendEmitsItsBufferInOrder : Prop :=
  (∀ (s t : State), s.Inv → exec .txi s = .next t →
    ∃ (th : Thread) (k : Nat), th ∈ s.threads ∧ th.state = .wait ∧ k < th.len.toNat ∧
      s.txCursor = th.base + k ∧ s.txRem.toNat = th.len.toNat - k ∧
      emitted s t = [.linkTx (Memory.read s.mem (th.base + k))]) ∧
  (∀ (s : State) (t : BitVec 4) (th : Thread),
    s.Inv → s.fault = none → s.ThreadAt t.toNat .acq th → s.txBusy = false → s.txrdy = true →
      ∃ u, execAll
          (.acq t :: (List.replicate (th.len.toNat - 1) [.lrdy, .txi]).flatten ++ [.sret t]) s = .next u ∧
        emitted s u = (List.range th.len.toNat).map (fun k => .linkTx (Memory.read s.mem (th.base + k))) ++
          [.ret t.toNat .send .ok] ∧
        u.txBusy = false ∧ u.ThreadAt t.toNat .idle { th with state := .idle })
end

