-- ==== Sys2Proof/Laws/Decode.lean ====
section
/-! SUPPORT. The fields of a stimulus word and of a key code, put together and taken apart. -/

namespace Sys2Proof

theorem stimWord_toNat (op imm : Byte) : (stimWord op imm).toNat = op.toNat * 256 + imm.toNat := by
  have h : ∀ a b : Byte, (a ++ b : BitVec (8 + 8)).toNat = a.toNat * 256 + b.toNat := by
    intro a b
    rw [BitVec.toNat_append, Nat.shiftLeft_eq, Nat.mul_comm, ← Nat.two_pow_add_eq_or_of_lt b.isLt]
  exact h op imm

theorem stimOp_toNat (w : StimWord) : (stimOp w).toNat = w.toNat / 256 := by
  simp [stimOp, BitVec.extractLsb'_toNat, Nat.shiftRight_eq_div_pow]
  omega

theorem stimImm_toNat (w : StimWord) : (stimImm w).toNat = w.toNat % 256 := by
  simp [stimImm, BitVec.extractLsb'_toNat]

@[simp] theorem stimOp_stimWord (op imm : Byte) : stimOp (stimWord op imm) = op := by
  apply BitVec.eq_of_toNat_eq
  rw [stimOp_toNat, stimWord_toNat]
  omega

@[simp] theorem stimImm_stimWord (op imm : Byte) : stimImm (stimWord op imm) = imm := by
  apply BitVec.eq_of_toNat_eq
  rw [stimImm_toNat, stimWord_toNat]
  omega

/-- A word is its opcode and its immediate. -/
theorem stimWord_fields (w : StimWord) : stimWord (stimOp w) (stimImm w) = w := by
  apply BitVec.eq_of_toNat_eq
  rw [stimWord_toNat, stimOp_toNat, stimImm_toNat]
  omega

@[simp] theorem immHi_append (a b : BitVec 4) : immHi (a ++ b) = a := by revert a b; decide

@[simp] theorem immLo_append (a b : BitVec 4) : immLo (a ++ b) = b := by revert a b; decide

@[simp] theorem immReg_append (a : BitVec 2) (b : BitVec 6) : immReg (a ++ b) = a := by
  revert a b; decide

@[simp] theorem immVal_append (a : BitVec 2) (b : BitVec 6) : immVal (a ++ b) = b := by
  revert a b; decide

theorem immHi_immLo (i : Byte) : immHi i ++ immLo i = i := by revert i; decide

theorem immReg_immVal (i : Byte) : immReg i ++ immVal i = i := by revert i; decide

/-- The code with bit 7 clear is no header and is a press of its scan code (R81). -/
theorem press_code (sc : ScanCode) :
    isHeader (0#1 ++ sc) = false ∧ released (0#1 ++ sc) = false ∧ scancode (0#1 ++ sc) = sc := by
  revert sc; decide

/-- The code with bit 7 set is a release of its scan code (R81). -/
theorem release_code (sc : ScanCode) :
    released (1#1 ++ sc) = true ∧ scancode (1#1 ++ sc) = sc := by
  revert sc; decide

/-- Release codes exist for the scan codes up to 0x75 only (R81). -/
theorem release_isHeader (sc : ScanCode) : isHeader (1#1 ++ sc) = decide (0x75 < sc.toNat) := by
  revert sc; decide

end Sys2Proof
end

