-- ==== Sys2Proof/Laws/Memory.lean ====
section
/-! SUPPORT. The laws of caller memory: read after write, and the canonical form. -/

namespace Sys2Proof.Machine.Memory

theorem read_write_same (m : List Host.Cell) (a : Nat) (b : Byte) (h : wf m) :
    read (write m a b) a = b := by
  induction m with
  | nil => by_cases hb : b = unlisted <;> simp [write, read, hb]
  | cons c rest ih =>
    obtain ⟨k, v⟩ := c
    obtain ⟨hp, hv⟩ := h
    rw [List.pairwise_cons] at hp
    have hrest : wf rest := ⟨hp.2, fun c hc => hv c (List.mem_cons_of_mem _ hc)⟩
    have hfresh : ∀ (l : List Host.Cell), (∀ x ∈ l, a < x.1) → read l a = unlisted := by
      intro l
      induction l with
      | nil => intro _; rfl
      | cons d l ihl =>
        intro hl
        have hd := hl d (by simp)
        simp only [read]
        rw [if_neg (by omega)]
        exact ihl fun x hx => hl x (by simp [hx])
    unfold write
    by_cases hlt : a < k
    · rw [if_pos hlt]
      by_cases hb : b = unlisted
      · rw [if_pos hb, hb]
        apply hfresh
        intro x hx
        rcases List.mem_cons.1 hx with rfl | hx
        · exact hlt
        · exact lt_trans hlt (hp.1 x hx)
      · rw [if_neg hb]; simp [read]
    · rw [if_neg hlt]
      by_cases hk : a = k
      · rw [if_pos hk]
        by_cases hb : b = unlisted
        · rw [if_pos hb, hb]
          exact hfresh rest fun x hx => hk ▸ hp.1 x hx
        · rw [if_neg hb]; simp [read]
      · rw [if_neg hk]
        simp only [read]
        rw [if_neg (Ne.symm hk)]
        exact ih hrest

theorem read_write_other (m : List Host.Cell) (a a' : Nat) (b : Byte) (h : wf m) (ha : a' ≠ a) :
    read (write m a b) a' = read m a' := by
  induction m with
  | nil => by_cases hb : b = unlisted <;> simp [write, read, hb, Ne.symm ha]
  | cons c rest ih =>
    obtain ⟨k, v⟩ := c
    obtain ⟨hp, hv⟩ := h
    rw [List.pairwise_cons] at hp
    have hrest : wf rest := ⟨hp.2, fun c hc => hv c (List.mem_cons_of_mem _ hc)⟩
    unfold write
    split
    · split <;> simp [read, Ne.symm ha]
    · split
      · rename_i hk
        split <;> simp [read, ← hk, Ne.symm ha]
      · simp only [read, ih hrest]

theorem mem_write {m : List Host.Cell} {a : Nat} {b : Byte} {c : Host.Cell} (h : c ∈ write m a b) :
    c ∈ m ∨ (c = (a, b) ∧ b ≠ unlisted) := by
  induction m with
  | nil =>
    by_cases hb : b = unlisted
    · simp [write, hb] at h
    · simp only [write, if_neg hb, List.mem_singleton] at h; exact .inr ⟨h, hb⟩
  | cons d rest ih =>
    obtain ⟨k, v⟩ := d
    unfold write at h
    split at h
    · split at h
      · exact .inl h
      · rename_i hb
        rcases List.mem_cons.1 h with rfl | h
        · exact .inr ⟨rfl, hb⟩
        · exact .inl h
    · split at h
      · split at h
        · exact .inl (List.mem_cons_of_mem _ h)
        · rename_i hb
          rcases List.mem_cons.1 h with rfl | h
          · exact .inr ⟨rfl, hb⟩
          · exact .inl (List.mem_cons_of_mem _ h)
      · rcases List.mem_cons.1 h with rfl | h
        · exact .inl (List.mem_cons_self)
        · exact (ih h).imp (List.mem_cons_of_mem _) id

/-- A store keeps the canonical form. -/
theorem write_wf (m : List Host.Cell) (a : Nat) (b : Byte) (h : wf m) : wf (write m a b) := by
  refine ⟨?_, ?_⟩
  · induction m with
    | nil => by_cases hb : b = unlisted <;> simp [write, hb]
    | cons c rest ih =>
      obtain ⟨k, v⟩ := c
      obtain ⟨hp, hv⟩ := h
      have hp' := hp
      rw [List.pairwise_cons] at hp
      have hrest : wf rest := ⟨hp.2, fun c hc => hv c (List.mem_cons_of_mem _ hc)⟩
      unfold write
      split
      · rename_i hlt
        split
        · exact hp'
        · refine List.pairwise_cons.2 ⟨?_, hp'⟩
          intro x hx
          rcases List.mem_cons.1 hx with rfl | hx
          · exact hlt
          · exact lt_trans hlt (hp.1 x hx)
      · split
        · rename_i hk
          split
          · exact hp.2
          · exact List.pairwise_cons.2 ⟨fun x hx => hk ▸ hp.1 x hx, hp.2⟩
        · rename_i hlt hk
          refine List.pairwise_cons.2 ⟨?_, ih hrest⟩
          intro x hx
          rcases mem_write hx with hx | ⟨rfl, _⟩
          · exact hp.1 x hx
          · show k < a
            omega
  · intro c hc
    rcases mem_write hc with hc | ⟨rfl, hb⟩
    · exact h.2 c hc
    · exact hb

/-- Reset's memory has the canonical form. -/
theorem reset_wf : wf State.reset.mem := ⟨List.Pairwise.nil, by intro c hc; cases hc⟩

end Sys2Proof.Machine.Memory
end

