-- ==== Sys2Proof/Laws/State.lean ====
section
/-! SUPPORT. The fields of a state after each named update: one lemma per field and update. -/

namespace Sys2Proof.Machine

variable (s : State)

/-! ### emit -/

@[simp] theorem State.emit_cfg (x : Txn) : (State.emit x s).cfg = s.cfg := rfl
@[simp] theorem State.emit_put (x : Txn) : (State.emit x s).put = s.put := rfl
@[simp] theorem State.emit_get (x : Txn) : (State.emit x s).get = s.get := rfl
@[simp] theorem State.emit_ring (x : Txn) : (State.emit x s).ring = s.ring := rfl
@[simp] theorem State.emit_softPend (x : Txn) : (State.emit x s).softPend = s.softPend := rfl
@[simp] theorem State.emit_drActive (x : Txn) : (State.emit x s).drActive = s.drActive := rfl
@[simp] theorem State.emit_drN (x : Txn) : (State.emit x s).drN = s.drN := rfl
@[simp] theorem State.emit_decState (x : Txn) : (State.emit x s).decState = s.decState := rfl
@[simp] theorem State.emit_pkgKind (x : Txn) : (State.emit x s).pkgKind = s.pkgKind := rfl
@[simp] theorem State.emit_pkgLen (x : Txn) : (State.emit x s).pkgLen = s.pkgLen := rfl
@[simp] theorem State.emit_pkgIdx (x : Txn) : (State.emit x s).pkgIdx = s.pkgIdx := rfl
@[simp] theorem State.emit_pkg (x : Txn) : (State.emit x s).pkg = s.pkg := rfl
@[simp] theorem State.emit_mods (x : Txn) : (State.emit x s).mods = s.mods := rfl
@[simp] theorem State.emit_mode (x : Txn) : (State.emit x s).mode = s.mode := rfl
@[simp] theorem State.emit_genPresent (x : Txn) : (State.emit x s).genPresent = s.genPresent := rfl
@[simp] theorem State.emit_irqEn (x : Txn) : (State.emit x s).irqEn = s.irqEn := rfl
@[simp] theorem State.emit_txBusy (x : Txn) : (State.emit x s).txBusy = s.txBusy := rfl
@[simp] theorem State.emit_txCursor (x : Txn) : (State.emit x s).txCursor = s.txCursor := rfl
@[simp] theorem State.emit_txRem (x : Txn) : (State.emit x s).txRem = s.txRem := rfl
@[simp] theorem State.emit_threads (x : Txn) : (State.emit x s).threads = s.threads := rfl
@[simp] theorem State.emit_fault (x : Txn) : (State.emit x s).fault = s.fault := rfl
@[simp] theorem State.emit_linkRxq (x : Txn) : (State.emit x s).linkRxq = s.linkRxq := rfl
@[simp] theorem State.emit_txrdy (x : Txn) : (State.emit x s).txrdy = s.txrdy := rfl
@[simp] theorem State.emit_evqFull (x : Txn) : (State.emit x s).evqFull = s.evqFull := rfl
@[simp] theorem State.emit_mem (x : Txn) : (State.emit x s).mem = s.mem := rfl
@[simp] theorem State.emit_history (x : Txn) : (State.emit x s).history = s.history ++ [x] := rfl
@[simp] theorem State.emit_sched (x : Txn) : (State.emit x s).sched = s.sched := rfl
@[simp] theorem State.emit_timeIn (x : Txn) : (State.emit x s).timeIn = s.timeIn := rfl
@[simp] theorem State.emit_draws (x : Txn) : (State.emit x s).draws = s.draws := rfl

/-! ### linkTx -/

@[simp] theorem State.linkTx_cfg (b : Byte) : (State.linkTx b s).cfg = s.cfg := rfl
@[simp] theorem State.linkTx_put (b : Byte) : (State.linkTx b s).put = s.put := rfl
@[simp] theorem State.linkTx_get (b : Byte) : (State.linkTx b s).get = s.get := rfl
@[simp] theorem State.linkTx_ring (b : Byte) : (State.linkTx b s).ring = s.ring := rfl
@[simp] theorem State.linkTx_softPend (b : Byte) : (State.linkTx b s).softPend = s.softPend := rfl
@[simp] theorem State.linkTx_drActive (b : Byte) : (State.linkTx b s).drActive = s.drActive := rfl
@[simp] theorem State.linkTx_drN (b : Byte) : (State.linkTx b s).drN = s.drN := rfl
@[simp] theorem State.linkTx_decState (b : Byte) : (State.linkTx b s).decState = s.decState := rfl
@[simp] theorem State.linkTx_pkgKind (b : Byte) : (State.linkTx b s).pkgKind = s.pkgKind := rfl
@[simp] theorem State.linkTx_pkgLen (b : Byte) : (State.linkTx b s).pkgLen = s.pkgLen := rfl
@[simp] theorem State.linkTx_pkgIdx (b : Byte) : (State.linkTx b s).pkgIdx = s.pkgIdx := rfl
@[simp] theorem State.linkTx_pkg (b : Byte) : (State.linkTx b s).pkg = s.pkg := rfl
@[simp] theorem State.linkTx_mods (b : Byte) : (State.linkTx b s).mods = s.mods := rfl
@[simp] theorem State.linkTx_mode (b : Byte) : (State.linkTx b s).mode = s.mode := rfl
@[simp] theorem State.linkTx_genPresent (b : Byte) : (State.linkTx b s).genPresent = s.genPresent := rfl
@[simp] theorem State.linkTx_irqEn (b : Byte) : (State.linkTx b s).irqEn = s.irqEn := rfl
@[simp] theorem State.linkTx_txBusy (b : Byte) : (State.linkTx b s).txBusy = s.txBusy := rfl
@[simp] theorem State.linkTx_txCursor (b : Byte) : (State.linkTx b s).txCursor = s.txCursor := rfl
@[simp] theorem State.linkTx_txRem (b : Byte) : (State.linkTx b s).txRem = s.txRem := rfl
@[simp] theorem State.linkTx_threads (b : Byte) : (State.linkTx b s).threads = s.threads := rfl
@[simp] theorem State.linkTx_fault (b : Byte) : (State.linkTx b s).fault = s.fault := rfl
@[simp] theorem State.linkTx_linkRxq (b : Byte) : (State.linkTx b s).linkRxq = s.linkRxq := rfl
@[simp] theorem State.linkTx_txrdy (b : Byte) : (State.linkTx b s).txrdy = false := rfl
@[simp] theorem State.linkTx_evqFull (b : Byte) : (State.linkTx b s).evqFull = s.evqFull := rfl
@[simp] theorem State.linkTx_mem (b : Byte) : (State.linkTx b s).mem = s.mem := rfl
@[simp] theorem State.linkTx_history (b : Byte) : (State.linkTx b s).history = s.history ++ [.linkTx b] := rfl
@[simp] theorem State.linkTx_sched (b : Byte) : (State.linkTx b s).sched = s.sched := rfl
@[simp] theorem State.linkTx_timeIn (b : Byte) : (State.linkTx b s).timeIn = s.timeIn := rfl
@[simp] theorem State.linkTx_draws (b : Byte) : (State.linkTx b s).draws = s.draws := rfl

/-! ### emitEvent -/

@[simp] theorem State.emitEvent_cfg (i : ScanCode) (v : BitVec 1) : (State.emitEvent i v s).cfg = s.cfg := rfl
@[simp] theorem State.emitEvent_put (i : ScanCode) (v : BitVec 1) : (State.emitEvent i v s).put = s.put := rfl
@[simp] theorem State.emitEvent_get (i : ScanCode) (v : BitVec 1) : (State.emitEvent i v s).get = s.get := rfl
@[simp] theorem State.emitEvent_ring (i : ScanCode) (v : BitVec 1) : (State.emitEvent i v s).ring = s.ring := rfl
@[simp] theorem State.emitEvent_softPend (i : ScanCode) (v : BitVec 1) : (State.emitEvent i v s).softPend = s.softPend := rfl
@[simp] theorem State.emitEvent_drActive (i : ScanCode) (v : BitVec 1) : (State.emitEvent i v s).drActive = s.drActive := rfl
@[simp] theorem State.emitEvent_drN (i : ScanCode) (v : BitVec 1) : (State.emitEvent i v s).drN = s.drN := rfl
@[simp] theorem State.emitEvent_decState (i : ScanCode) (v : BitVec 1) : (State.emitEvent i v s).decState = s.decState := rfl
@[simp] theorem State.emitEvent_pkgKind (i : ScanCode) (v : BitVec 1) : (State.emitEvent i v s).pkgKind = s.pkgKind := rfl
@[simp] theorem State.emitEvent_pkgLen (i : ScanCode) (v : BitVec 1) : (State.emitEvent i v s).pkgLen = s.pkgLen := rfl
@[simp] theorem State.emitEvent_pkgIdx (i : ScanCode) (v : BitVec 1) : (State.emitEvent i v s).pkgIdx = s.pkgIdx := rfl
@[simp] theorem State.emitEvent_pkg (i : ScanCode) (v : BitVec 1) : (State.emitEvent i v s).pkg = s.pkg := rfl
@[simp] theorem State.emitEvent_mods (i : ScanCode) (v : BitVec 1) : (State.emitEvent i v s).mods = s.mods := rfl
@[simp] theorem State.emitEvent_mode (i : ScanCode) (v : BitVec 1) : (State.emitEvent i v s).mode = s.mode := rfl
@[simp] theorem State.emitEvent_genPresent (i : ScanCode) (v : BitVec 1) : (State.emitEvent i v s).genPresent = s.genPresent := rfl
@[simp] theorem State.emitEvent_irqEn (i : ScanCode) (v : BitVec 1) : (State.emitEvent i v s).irqEn = s.irqEn := rfl
@[simp] theorem State.emitEvent_txBusy (i : ScanCode) (v : BitVec 1) : (State.emitEvent i v s).txBusy = s.txBusy := rfl
@[simp] theorem State.emitEvent_txCursor (i : ScanCode) (v : BitVec 1) : (State.emitEvent i v s).txCursor = s.txCursor := rfl
@[simp] theorem State.emitEvent_txRem (i : ScanCode) (v : BitVec 1) : (State.emitEvent i v s).txRem = s.txRem := rfl
@[simp] theorem State.emitEvent_threads (i : ScanCode) (v : BitVec 1) : (State.emitEvent i v s).threads = s.threads := rfl
@[simp] theorem State.emitEvent_fault (i : ScanCode) (v : BitVec 1) : (State.emitEvent i v s).fault = s.fault := rfl
@[simp] theorem State.emitEvent_linkRxq (i : ScanCode) (v : BitVec 1) : (State.emitEvent i v s).linkRxq = s.linkRxq := rfl
@[simp] theorem State.emitEvent_txrdy (i : ScanCode) (v : BitVec 1) : (State.emitEvent i v s).txrdy = s.txrdy := rfl
@[simp] theorem State.emitEvent_evqFull (i : ScanCode) (v : BitVec 1) : (State.emitEvent i v s).evqFull = s.evqFull := rfl
@[simp] theorem State.emitEvent_mem (i : ScanCode) (v : BitVec 1) : (State.emitEvent i v s).mem = s.mem := rfl
@[simp] theorem State.emitEvent_history (i : ScanCode) (v : BitVec 1) : (State.emitEvent i v s).history = s.history ++ [.ev i v s.timeNow] := rfl
@[simp] theorem State.emitEvent_sched (i : ScanCode) (v : BitVec 1) : (State.emitEvent i v s).sched = s.sched := rfl
@[simp] theorem State.emitEvent_timeIn (i : ScanCode) (v : BitVec 1) : (State.emitEvent i v s).timeIn = none := rfl
@[simp] theorem State.emitEvent_draws (i : ScanCode) (v : BitVec 1) : (State.emitEvent i v s).draws = s.draws + 1 := rfl

/-! ### ringWrite -/

@[simp] theorem State.ringWrite_cfg (i : Count) (b : Byte) : (State.ringWrite i b s).cfg = s.cfg := rfl
@[simp] theorem State.ringWrite_put (i : Count) (b : Byte) : (State.ringWrite i b s).put = s.put := rfl
@[simp] theorem State.ringWrite_get (i : Count) (b : Byte) : (State.ringWrite i b s).get = s.get := rfl
@[simp] theorem State.ringWrite_ring (i : Count) (b : Byte) : (State.ringWrite i b s).ring = s.ring.set (ringSlot s.cfg i) b := rfl
@[simp] theorem State.ringWrite_softPend (i : Count) (b : Byte) : (State.ringWrite i b s).softPend = s.softPend := rfl
@[simp] theorem State.ringWrite_drActive (i : Count) (b : Byte) : (State.ringWrite i b s).drActive = s.drActive := rfl
@[simp] theorem State.ringWrite_drN (i : Count) (b : Byte) : (State.ringWrite i b s).drN = s.drN := rfl
@[simp] theorem State.ringWrite_decState (i : Count) (b : Byte) : (State.ringWrite i b s).decState = s.decState := rfl
@[simp] theorem State.ringWrite_pkgKind (i : Count) (b : Byte) : (State.ringWrite i b s).pkgKind = s.pkgKind := rfl
@[simp] theorem State.ringWrite_pkgLen (i : Count) (b : Byte) : (State.ringWrite i b s).pkgLen = s.pkgLen := rfl
@[simp] theorem State.ringWrite_pkgIdx (i : Count) (b : Byte) : (State.ringWrite i b s).pkgIdx = s.pkgIdx := rfl
@[simp] theorem State.ringWrite_pkg (i : Count) (b : Byte) : (State.ringWrite i b s).pkg = s.pkg := rfl
@[simp] theorem State.ringWrite_mods (i : Count) (b : Byte) : (State.ringWrite i b s).mods = s.mods := rfl
@[simp] theorem State.ringWrite_mode (i : Count) (b : Byte) : (State.ringWrite i b s).mode = s.mode := rfl
@[simp] theorem State.ringWrite_genPresent (i : Count) (b : Byte) : (State.ringWrite i b s).genPresent = s.genPresent := rfl
@[simp] theorem State.ringWrite_irqEn (i : Count) (b : Byte) : (State.ringWrite i b s).irqEn = s.irqEn := rfl
@[simp] theorem State.ringWrite_txBusy (i : Count) (b : Byte) : (State.ringWrite i b s).txBusy = s.txBusy := rfl
@[simp] theorem State.ringWrite_txCursor (i : Count) (b : Byte) : (State.ringWrite i b s).txCursor = s.txCursor := rfl
@[simp] theorem State.ringWrite_txRem (i : Count) (b : Byte) : (State.ringWrite i b s).txRem = s.txRem := rfl
@[simp] theorem State.ringWrite_threads (i : Count) (b : Byte) : (State.ringWrite i b s).threads = s.threads := rfl
@[simp] theorem State.ringWrite_fault (i : Count) (b : Byte) : (State.ringWrite i b s).fault = s.fault := rfl
@[simp] theorem State.ringWrite_linkRxq (i : Count) (b : Byte) : (State.ringWrite i b s).linkRxq = s.linkRxq := rfl
@[simp] theorem State.ringWrite_txrdy (i : Count) (b : Byte) : (State.ringWrite i b s).txrdy = s.txrdy := rfl
@[simp] theorem State.ringWrite_evqFull (i : Count) (b : Byte) : (State.ringWrite i b s).evqFull = s.evqFull := rfl
@[simp] theorem State.ringWrite_mem (i : Count) (b : Byte) : (State.ringWrite i b s).mem = s.mem := rfl
@[simp] theorem State.ringWrite_history (i : Count) (b : Byte) : (State.ringWrite i b s).history = s.history := rfl
@[simp] theorem State.ringWrite_sched (i : Count) (b : Byte) : (State.ringWrite i b s).sched = s.sched := rfl
@[simp] theorem State.ringWrite_timeIn (i : Count) (b : Byte) : (State.ringWrite i b s).timeIn = s.timeIn := rfl
@[simp] theorem State.ringWrite_draws (i : Count) (b : Byte) : (State.ringWrite i b s).draws = s.draws := rfl

/-! ### pkgWrite -/

@[simp] theorem State.pkgWrite_cfg (i : BitVec 4) (b : Byte) : (State.pkgWrite i b s).cfg = s.cfg := rfl
@[simp] theorem State.pkgWrite_put (i : BitVec 4) (b : Byte) : (State.pkgWrite i b s).put = s.put := rfl
@[simp] theorem State.pkgWrite_get (i : BitVec 4) (b : Byte) : (State.pkgWrite i b s).get = s.get := rfl
@[simp] theorem State.pkgWrite_ring (i : BitVec 4) (b : Byte) : (State.pkgWrite i b s).ring = s.ring := rfl
@[simp] theorem State.pkgWrite_softPend (i : BitVec 4) (b : Byte) : (State.pkgWrite i b s).softPend = s.softPend := rfl
@[simp] theorem State.pkgWrite_drActive (i : BitVec 4) (b : Byte) : (State.pkgWrite i b s).drActive = s.drActive := rfl
@[simp] theorem State.pkgWrite_drN (i : BitVec 4) (b : Byte) : (State.pkgWrite i b s).drN = s.drN := rfl
@[simp] theorem State.pkgWrite_decState (i : BitVec 4) (b : Byte) : (State.pkgWrite i b s).decState = s.decState := rfl
@[simp] theorem State.pkgWrite_pkgKind (i : BitVec 4) (b : Byte) : (State.pkgWrite i b s).pkgKind = s.pkgKind := rfl
@[simp] theorem State.pkgWrite_pkgLen (i : BitVec 4) (b : Byte) : (State.pkgWrite i b s).pkgLen = s.pkgLen := rfl
@[simp] theorem State.pkgWrite_pkgIdx (i : BitVec 4) (b : Byte) : (State.pkgWrite i b s).pkgIdx = s.pkgIdx := rfl
@[simp] theorem State.pkgWrite_pkg (i : BitVec 4) (b : Byte) : (State.pkgWrite i b s).pkg = 
    s.pkg.set (pkgSlot i) b (pkgSlot_lt i) := rfl
@[simp] theorem State.pkgWrite_mods (i : BitVec 4) (b : Byte) : (State.pkgWrite i b s).mods = s.mods := rfl
@[simp] theorem State.pkgWrite_mode (i : BitVec 4) (b : Byte) : (State.pkgWrite i b s).mode = s.mode := rfl
@[simp] theorem State.pkgWrite_genPresent (i : BitVec 4) (b : Byte) : (State.pkgWrite i b s).genPresent = s.genPresent := rfl
@[simp] theorem State.pkgWrite_irqEn (i : BitVec 4) (b : Byte) : (State.pkgWrite i b s).irqEn = s.irqEn := rfl
@[simp] theorem State.pkgWrite_txBusy (i : BitVec 4) (b : Byte) : (State.pkgWrite i b s).txBusy = s.txBusy := rfl
@[simp] theorem State.pkgWrite_txCursor (i : BitVec 4) (b : Byte) : (State.pkgWrite i b s).txCursor = s.txCursor := rfl
@[simp] theorem State.pkgWrite_txRem (i : BitVec 4) (b : Byte) : (State.pkgWrite i b s).txRem = s.txRem := rfl
@[simp] theorem State.pkgWrite_threads (i : BitVec 4) (b : Byte) : (State.pkgWrite i b s).threads = s.threads := rfl
@[simp] theorem State.pkgWrite_fault (i : BitVec 4) (b : Byte) : (State.pkgWrite i b s).fault = s.fault := rfl
@[simp] theorem State.pkgWrite_linkRxq (i : BitVec 4) (b : Byte) : (State.pkgWrite i b s).linkRxq = s.linkRxq := rfl
@[simp] theorem State.pkgWrite_txrdy (i : BitVec 4) (b : Byte) : (State.pkgWrite i b s).txrdy = s.txrdy := rfl
@[simp] theorem State.pkgWrite_evqFull (i : BitVec 4) (b : Byte) : (State.pkgWrite i b s).evqFull = s.evqFull := rfl
@[simp] theorem State.pkgWrite_mem (i : BitVec 4) (b : Byte) : (State.pkgWrite i b s).mem = s.mem := rfl
@[simp] theorem State.pkgWrite_history (i : BitVec 4) (b : Byte) : (State.pkgWrite i b s).history = s.history := rfl
@[simp] theorem State.pkgWrite_sched (i : BitVec 4) (b : Byte) : (State.pkgWrite i b s).sched = s.sched := rfl
@[simp] theorem State.pkgWrite_timeIn (i : BitVec 4) (b : Byte) : (State.pkgWrite i b s).timeIn = s.timeIn := rfl
@[simp] theorem State.pkgWrite_draws (i : BitVec 4) (b : Byte) : (State.pkgWrite i b s).draws = s.draws := rfl

/-! ### setThread -/

@[simp] theorem State.setThread_cfg (t : Nat) (th : Thread) : (State.setThread t th s).cfg = s.cfg := rfl
@[simp] theorem State.setThread_put (t : Nat) (th : Thread) : (State.setThread t th s).put = s.put := rfl
@[simp] theorem State.setThread_get (t : Nat) (th : Thread) : (State.setThread t th s).get = s.get := rfl
@[simp] theorem State.setThread_ring (t : Nat) (th : Thread) : (State.setThread t th s).ring = s.ring := rfl
@[simp] theorem State.setThread_softPend (t : Nat) (th : Thread) : (State.setThread t th s).softPend = s.softPend := rfl
@[simp] theorem State.setThread_drActive (t : Nat) (th : Thread) : (State.setThread t th s).drActive = s.drActive := rfl
@[simp] theorem State.setThread_drN (t : Nat) (th : Thread) : (State.setThread t th s).drN = s.drN := rfl
@[simp] theorem State.setThread_decState (t : Nat) (th : Thread) : (State.setThread t th s).decState = s.decState := rfl
@[simp] theorem State.setThread_pkgKind (t : Nat) (th : Thread) : (State.setThread t th s).pkgKind = s.pkgKind := rfl
@[simp] theorem State.setThread_pkgLen (t : Nat) (th : Thread) : (State.setThread t th s).pkgLen = s.pkgLen := rfl
@[simp] theorem State.setThread_pkgIdx (t : Nat) (th : Thread) : (State.setThread t th s).pkgIdx = s.pkgIdx := rfl
@[simp] theorem State.setThread_pkg (t : Nat) (th : Thread) : (State.setThread t th s).pkg = s.pkg := rfl
@[simp] theorem State.setThread_mods (t : Nat) (th : Thread) : (State.setThread t th s).mods = s.mods := rfl
@[simp] theorem State.setThread_mode (t : Nat) (th : Thread) : (State.setThread t th s).mode = s.mode := rfl
@[simp] theorem State.setThread_genPresent (t : Nat) (th : Thread) : (State.setThread t th s).genPresent = s.genPresent := rfl
@[simp] theorem State.setThread_irqEn (t : Nat) (th : Thread) : (State.setThread t th s).irqEn = s.irqEn := rfl
@[simp] theorem State.setThread_txBusy (t : Nat) (th : Thread) : (State.setThread t th s).txBusy = s.txBusy := rfl
@[simp] theorem State.setThread_txCursor (t : Nat) (th : Thread) : (State.setThread t th s).txCursor = s.txCursor := rfl
@[simp] theorem State.setThread_txRem (t : Nat) (th : Thread) : (State.setThread t th s).txRem = s.txRem := rfl
@[simp] theorem State.setThread_threads (t : Nat) (th : Thread) : (State.setThread t th s).threads = s.threads.set t th := rfl
@[simp] theorem State.setThread_fault (t : Nat) (th : Thread) : (State.setThread t th s).fault = s.fault := rfl
@[simp] theorem State.setThread_linkRxq (t : Nat) (th : Thread) : (State.setThread t th s).linkRxq = s.linkRxq := rfl
@[simp] theorem State.setThread_txrdy (t : Nat) (th : Thread) : (State.setThread t th s).txrdy = s.txrdy := rfl
@[simp] theorem State.setThread_evqFull (t : Nat) (th : Thread) : (State.setThread t th s).evqFull = s.evqFull := rfl
@[simp] theorem State.setThread_mem (t : Nat) (th : Thread) : (State.setThread t th s).mem = s.mem := rfl
@[simp] theorem State.setThread_history (t : Nat) (th : Thread) : (State.setThread t th s).history = s.history := rfl
@[simp] theorem State.setThread_sched (t : Nat) (th : Thread) : (State.setThread t th s).sched = s.sched := rfl
@[simp] theorem State.setThread_timeIn (t : Nat) (th : Thread) : (State.setThread t th s).timeIn = s.timeIn := rfl
@[simp] theorem State.setThread_draws (t : Nat) (th : Thread) : (State.setThread t th s).draws = s.draws := rfl

/-! ### advance -/

@[simp] theorem State.advance_cfg : (State.advance s).cfg = s.cfg := rfl
@[simp] theorem State.advance_put : (State.advance s).put = s.put := rfl
@[simp] theorem State.advance_get : (State.advance s).get = s.get := rfl
@[simp] theorem State.advance_ring : (State.advance s).ring = s.ring := rfl
@[simp] theorem State.advance_softPend : (State.advance s).softPend = s.softPend := rfl
@[simp] theorem State.advance_drActive : (State.advance s).drActive = s.drActive := rfl
@[simp] theorem State.advance_drN : (State.advance s).drN = s.drN := rfl
@[simp] theorem State.advance_decState : (State.advance s).decState = s.decState := rfl
@[simp] theorem State.advance_pkgKind : (State.advance s).pkgKind = s.pkgKind := rfl
@[simp] theorem State.advance_pkgLen : (State.advance s).pkgLen = s.pkgLen := rfl
@[simp] theorem State.advance_pkgIdx : (State.advance s).pkgIdx = s.pkgIdx := rfl
@[simp] theorem State.advance_pkg : (State.advance s).pkg = s.pkg := rfl
@[simp] theorem State.advance_mods : (State.advance s).mods = s.mods := rfl
@[simp] theorem State.advance_mode : (State.advance s).mode = s.mode := rfl
@[simp] theorem State.advance_genPresent : (State.advance s).genPresent = s.genPresent := rfl
@[simp] theorem State.advance_irqEn : (State.advance s).irqEn = s.irqEn := rfl
@[simp] theorem State.advance_txBusy : (State.advance s).txBusy = s.txBusy := rfl
@[simp] theorem State.advance_txCursor : (State.advance s).txCursor = s.txCursor := rfl
@[simp] theorem State.advance_txRem : (State.advance s).txRem = s.txRem := rfl
@[simp] theorem State.advance_threads : (State.advance s).threads = s.threads := rfl
@[simp] theorem State.advance_fault : (State.advance s).fault = s.fault := rfl
@[simp] theorem State.advance_linkRxq : (State.advance s).linkRxq = s.linkRxq := rfl
@[simp] theorem State.advance_txrdy : (State.advance s).txrdy = s.txrdy := rfl
@[simp] theorem State.advance_evqFull : (State.advance s).evqFull = s.evqFull := rfl
@[simp] theorem State.advance_mem : (State.advance s).mem = s.mem := rfl
@[simp] theorem State.advance_history : (State.advance s).history = s.history := rfl
@[simp] theorem State.advance_sched : (State.advance s).sched = s.sched.tail := rfl
@[simp] theorem State.advance_timeIn : (State.advance s).timeIn = s.timeIn := rfl
@[simp] theorem State.advance_draws : (State.advance s).draws = s.draws := rfl

end Sys2Proof.Machine
end

