-- ==== Sys2Proof/Laws/Ops.lean ====
section
/-! SUPPORT. What each shared operation can do when it answers a next state, said once. -/

namespace Sys2Proof.Machine

/-! ### Guards -/

@[simp] theorem whenRunning_none {s : State} (k : Out) (h : s.fault = none) : whenRunning s k = k := by
  simp [whenRunning, h]

@[simp] theorem whenRunning_some {s : State} {r : FaultRecord} (k : Out) (h : s.fault = some r) :
    whenRunning s k = .fault (.halted r) := by
  simp [whenRunning, h]

@[simp] theorem whenEnabled_true (k : Out) : whenEnabled true k = k := rfl

@[simp] theorem whenEnabled_false (k : Out) : whenEnabled false k = .refused .blocked := rfl

theorem next_iff {t s : State} : ((.next t : Out) = .next s) ↔ s = t := by
  constructor
  · intro h; cases h; rfl
  · rintro rfl; rfl

theorem whenRunning_next {s t : State} {k : Out} :
    whenRunning s k = .next t ↔ s.fault = none ∧ k = .next t := by
  cases h : s.fault <;> simp [h]

theorem whenEnabled_next {g : Bool} {k : Out} {t : State} :
    whenEnabled g k = .next t ↔ g = true ∧ k = .next t := by
  cases g <;> simp

theorem withThread_next {n : Nat} {s t : State} {k : Thread → Out} :
    withThread n s k = .next t ↔ ∃ th, s.threads[n]? = some th ∧ k th = .next t := by
  unfold withThread
  cases h : s.threads[n]? <;> simp

/-- A thread's step answers a next state only in a running block, for a thread in that TH_STATE. -/
theorem threadStep_next {n : Nat} {st : ThState} {s t : State} {k : Thread → Out} :
    threadStep n st s k = .next t ↔
      s.fault = none ∧ ∃ th, s.threads[n]? = some th ∧ th.state = st ∧ k th = .next t := by
  simp [threadStep, whenRunning_next, withThread_next, whenEnabled_next]

/-- A thread's step of an existing thread in that TH_STATE. -/
theorem threadStep_eq {n : Nat} {st : ThState} {s : State} {k : Thread → Out} {th : Thread}
    (hf : s.fault = none) (ht : s.threads[n]? = some th) (hs : th.state = st) :
    threadStep n st s k = k th := by
  simp [threadStep, withThread, hf, ht, hs]

/-- A thread's step of an existing thread in another TH_STATE is BLOCKED. -/
theorem threadStep_blocked {n : Nat} {st : ThState} {s : State} {k : Thread → Out} {th : Thread}
    (hf : s.fault = none) (ht : s.threads[n]? = some th) (hs : th.state ≠ st) :
    threadStep n st s k = .refused .blocked := by
  have : (th.state == st) = false := by simpa using hs
  simp [threadStep, withThread, hf, ht, this]

/-- Raising a model fault changes FAULT and nothing else. -/
theorem raiseFault_next {c : FaultCode} {n : Nat} {s t : State} :
    raiseFault c n s = .next t ↔ t = { s with fault := some ⟨c, n⟩ } := by
  simp [raiseFault, eq_comm]

theorem advanced_next {o : Out} {t : State} :
    advanced o = .next t ↔ ∃ t', o = .next t' ∧ t = t'.advance := by
  cases o <;> simp [advanced, eq_comm]

/-! ### The flags of MODS -/

theorem setFlag_getLsbD (m : BitVec 5) (k : Nat) (v : Bool) (hk : k < 5) (j : Nat) (hj : j < 5) :
    (setFlag m k v).getLsbD j = if j = k then v else m.getLsbD j := by
  revert m
  interval_cases k <;> interval_cases j <;> cases v <;> decide

theorem heldBit_lt (p : Params) (sc : ScanCode) : heldBit p sc < 4 := by
  unfold heldBit; split <;> [skip; (split <;> [skip; split])] <;> omega

/-! ### The dispatcher and the decoder -/

/-- The four ends of a key's routing (R140 to R149). -/
theorem routeKey_cases (b : Byte) (s : State) :
    (s.mode = modeEvent ∧ s.evqFull = true ∧
      routeKey b s = s.emit (.diag .evqFull (scanData b))) ∨
    (s.mode = modeEvent ∧ s.evqFull = false ∧
      routeKey b s = s.emitEvent (scancode b) (transitionOf b).value) ∨
    (s.mode ≠ modeEvent ∧ s.genPresent = true ∧ s.mode ≠ modePoll ∧
      routeKey b s = s.emit (.gen s.cfg.genHandle (transitionOf b) (scancode b))) ∨
    (s.mode ≠ modeEvent ∧ (s.genPresent = false ∨ s.mode = modePoll) ∧
      isHeld s.cfg (scancode b) = true ∧
      routeKey b s = { s with mods := setFlag s.mods (heldBit s.cfg (scancode b)) (!released b) }) ∨
    (s.mode ≠ modeEvent ∧ (s.genPresent = false ∨ s.mode = modePoll) ∧
      isHeld s.cfg (scancode b) = false ∧ scancode b = s.cfg.capsSc ∧
      routeKey b s =
        if released b then s else { s with mods := setFlag s.mods 4 (!s.mods.getLsbD 4) }) ∨
    (s.mode ≠ modeEvent ∧ (s.genPresent = false ∨ s.mode = modePoll) ∧
      isHeld s.cfg (scancode b) = false ∧ scancode b ≠ s.cfg.capsSc ∧
      routeKey b s = s.emit (.term b)) := by
  unfold routeKey routeEvent routeEventFull routeGen routeTerm modClassify modSetClr modCaps
  by_cases h1 : s.mode = modeEvent
  · cases h2 : s.evqFull <;> simp [h1]
  · by_cases h3 : s.genPresent = true ∧ s.mode ≠ modePoll
    · simp [h1, h3.1, h3.2]
    · have h4 : s.genPresent = false ∨ s.mode = modePoll := by
        by_cases hg : s.genPresent = true
        · exact .inr (by by_contra hm; exact h3 ⟨hg, hm⟩)
        · exact .inl (by simpa using hg)
      have h5 : (s.genPresent && s.mode != modePoll) = false := by
        rcases h4 with h | h <;> simp [h]
      by_cases h6 : isHeld s.cfg (scancode b) = true
      · simp [h1, h4, h5, h6]
      · by_cases h7 : scancode b = s.cfg.capsSc
        · have h6' := h6
          rw [h7] at h6'
          simp [h1, h4, h5, h6', h7]
        · simp [h1, h4, h5, h6, h7]

/-- The two ends of a payload byte (R123, R124). -/
theorem decPayload_eq (b : Byte) (s : State) :
    decPayload b s =
      if s.pkgIdx + 1 = s.pkgLen then
        let p := { s.pkgWrite s.pkgIdx b with pkgIdx := s.pkgIdx + 1 }
        { (if isPointerKind s.pkgKind then p.emit (.ptr s.pkgKind s.pkgLen (p.pkgBytes s.pkgLen)) else p)
          with decState := .idle, pkgIdx := 0 }
      else { s.pkgWrite s.pkgIdx b with pkgIdx := s.pkgIdx + 1 } := by
  unfold decPayload
  by_cases h : s.pkgIdx + 1 = s.pkgLen
  · rw [if_pos h]
    show (if s.pkgIdx + 1 = s.pkgLen then _ else _) = _
    rw [if_pos h]
    rfl
  · rw [if_neg h]
    show (if s.pkgIdx + 1 = s.pkgLen then _ else _) = _
    rw [if_neg h]

/-- What DECODE can be (R120). -/
theorem decodeInto_cases (b : Byte) (s : State) :
    (s.decState = .assembling ∧ decodeInto b s = decPayload b s) ∨
    (s.decState = .idle ∧ isHeader b = true ∧ hdrLookup s.cfg b = none ∧
      decodeInto b s = s.emit (.diag .unknownHeader b)) ∨
    (∃ e, s.decState = .idle ∧ isHeader b = true ∧ hdrLookup s.cfg b = some e ∧
      decodeInto b s = decHeader b e.kind e.len s) ∨
    (s.decState = .idle ∧ isHeader b = false ∧ decodeInto b s = routeKey b s) := by
  unfold decodeInto classify
  cases hs : s.decState with
  | assembling => simp
  | idle =>
    cases hh : isHeader b with
    | true =>
      cases hl : hdrLookup s.cfg b with
      | none => simp [decUnknown]
      | some e => simp
    | false => cases hr : released b <;> simp [decKey]

theorem inIdle_next {s t u : State} :
    inIdle s t = .next u ↔ s.fault = none ∧ s.decState = .idle ∧ u = t := by
  simp only [inIdle, whenRunning_next, whenEnabled_next, next_iff, beq_iff_eq]

/-! ### The calls of the caller threads -/

/-- What `send` can answer (R170). -/
theorem sendCall_next {t base : Nat} {len : Count} {s s' : State} (h : sendCall t base len s = .next s') :
    ∃ th, s.fault = none ∧ s.threads[t]? = some th ∧ th.state = .idle ∧
      ((∃ c, s' = { s with fault := some ⟨c, t⟩ }) ∨
       (len ≠ 0 ∧ addrCut s.cfg base + len.toNat ≤ addrSpace s.cfg ∧ s.irqEn = true ∧
        s' = s.setThread t { th with base := addrCut s.cfg base, len := len, state := .acq })) := by
  obtain ⟨hf, th, ht, hs, hk⟩ := threadStep_next.1 h
  refine ⟨th, hf, ht, hs, ?_⟩
  split at hk
  · exact .inl ⟨_, raiseFault_next.1 hk⟩
  · split at hk
    · exact .inl ⟨_, raiseFault_next.1 hk⟩
    · split at hk
      · exact .inl ⟨_, raiseFault_next.1 hk⟩
      · rename_i h1 h2 h3
        refine .inr ⟨h1, ?_, by simpa using h3, by simpa [eq_comm] using hk⟩
        simpa [pastTop] using h2

/-- What `send_polling` can answer (R180). -/
theorem sendPolling_next {t base : Nat} {len : Count} {s s' : State}
    (h : sendPolling t base len s = .next s') :
    ∃ th, s.fault = none ∧ s.threads[t]? = some th ∧ th.state = .idle ∧
      ((∃ c, s' = { s with fault := some ⟨c, t⟩ }) ∨
       (len ≠ 0 ∧ addrCut s.cfg base + len.toNat ≤ addrSpace s.cfg ∧ s.irqEn = false ∧
        s.txBusy = false ∧ s.threadsWith (fun u st => u != t && st != .idle) = [] ∧
        s' = s.setThread t
          { th with base := addrCut s.cfg base, len := len, idx := 0, spin := 0, state := .poll })) := by
  obtain ⟨hf, th, ht, hs, hk⟩ := threadStep_next.1 h
  refine ⟨th, hf, ht, hs, ?_⟩
  split at hk
  · exact .inl ⟨_, raiseFault_next.1 hk⟩
  · split at hk
    · exact .inl ⟨_, raiseFault_next.1 hk⟩
    · split at hk
      · exact .inl ⟨_, raiseFault_next.1 hk⟩
      · split at hk
        · exact .inl ⟨_, raiseFault_next.1 hk⟩
        · rename_i h1 h2 h3 h4
          have h4' : s.txBusy = false ∧ s.threadsWith (fun u st => u != t && st != .idle) = [] := by
            simpa using h4
          exact .inr ⟨h1, by simpa [pastTop] using h2, by simpa using h3, h4'.1, h4'.2,
            by simpa [eq_comm] using hk⟩

/-- What SEND_ACQUIRE can answer (R172). -/
theorem acquire_next {t : Nat} {s s' : State} :
    acquire t s = .next s' ↔
      ∃ th, s.fault = none ∧ s.threads[t]? = some th ∧ th.state = .acq ∧ s.txBusy = false ∧
        s' = txFirst (acquired t th s) := by
  simp only [acquire, threadStep_next, whenEnabled_next, Bool.not_eq_true',
    Host.Outcome.next.injEq]
  constructor
  · rintro ⟨hf, th, ht, hs, hb, rfl⟩; exact ⟨th, hf, ht, hs, hb, rfl⟩
  · rintro ⟨th, hf, ht, hs, hb, rfl⟩; exact ⟨hf, th, ht, hs, hb, rfl⟩

/-- What SEND_RETURN can answer (R174). -/
theorem sendReturn_next {t : Nat} {s s' : State} :
    sendReturn t s = .next s' ↔
      ∃ th, s.fault = none ∧ s.threads[t]? = some th ∧ th.state = .wait ∧ s.txBusy = false ∧
        s' = (s.emit (.ret t .send .ok)).setThread t { th with state := .idle } := by
  simp only [sendReturn, threadStep_next, whenEnabled_next, Bool.not_eq_true',
    Host.Outcome.next.injEq]
  constructor
  · rintro ⟨hf, th, ht, hs, hb, rfl⟩; exact ⟨th, hf, ht, hs, hb, rfl⟩
  · rintro ⟨th, hf, ht, hs, hb, rfl⟩; exact ⟨hf, th, ht, hs, hb, rfl⟩

/-- What POLL_STEP can answer (R181). -/
theorem pollStep_next {t : Nat} {s s' : State} :
    pollStep t s = .next s' ↔
      ∃ th, s.fault = none ∧ s.threads[t]? = some th ∧ th.state = .poll ∧
        s' = if s.txrdy then pollWrite t th s else pollFail t th s := by
  simp only [pollStep, threadStep_next, Host.Outcome.next.injEq]
  constructor
  · rintro ⟨hf, th, ht, hs, rfl⟩; exact ⟨th, hf, ht, hs, rfl⟩
  · rintro ⟨th, hf, ht, hs, rfl⟩; exact ⟨hf, th, ht, hs, rfl⟩

/-! ### The host control operations -/

/-- What IRQEN_WRITE can answer (R203). -/
theorem irqEnWrite_next {v : Bool} {s s' : State} (h : irqEnWrite v s = .next s') :
    (∃ r, s' = { s with fault := some r }) ∨
    ((v = false → s.txBusy = false ∧ s.threadsWith (fun _ st => st == .acq) = []) ∧
     (v = true → s.threadsWith (fun _ st => st == .poll) = []) ∧ s' = { s with irqEn := v }) := by
  unfold irqEnWrite at h
  simp only at h
  split at h
  · exact .inl ⟨_, raiseFault_next.1 h⟩
  · split at h
    · exact .inl ⟨_, raiseFault_next.1 h⟩
    · rename_i h1 h2
      refine .inr ⟨?_, ?_, by simpa [eq_comm] using h⟩
      · rintro rfl; simpa using h1
      · rintro rfl; simpa using h2

/-- What CRWRITE can answer (R200). -/
theorem crWrite_next {t r v : Nat} {s s' : State} (h : crWrite t r v s = .next s') :
    ∃ th, s.fault = none ∧ s.threads[t]? = some th ∧ th.state = .idle ∧
      ((∃ c, s' = { s with fault := some c }) ∨
       (r = 0 ∧ v < 3 ∧ s' = { s with mode := BitVec.ofNat 2 v }) ∨
       (r = 1 ∧ v ≤ 1 ∧ s' = { s with genPresent := v == 1 }) ∨
       (r = 2 ∧ v ≤ 1 ∧ irqEnWrite (v == 1) s = .next s')) := by
  obtain ⟨hf, th, ht, hs, hk⟩ := threadStep_next.1 h
  refine ⟨th, hf, ht, hs, ?_⟩
  split at hk
  · split at hk
    · exact .inl ⟨_, raiseFault_next.1 hk⟩
    · split at hk
      · exact .inl ⟨_, raiseFault_next.1 hk⟩
      · refine .inr (.inl ⟨rfl, by omega, ?_⟩)
        simpa [modeWrite, eq_comm] using hk
  · split at hk
    · exact .inl ⟨_, raiseFault_next.1 hk⟩
    · refine .inr (.inr (.inl ⟨rfl, by omega, ?_⟩))
      simpa [genWrite, eq_comm] using hk
  · split at hk
    · exact .inl ⟨_, raiseFault_next.1 hk⟩
    · exact .inr (.inr (.inr ⟨rfl, by omega, hk⟩))
  · exact .inl ⟨_, raiseFault_next.1 hk⟩

/-- What CRREAD can answer (R204). -/
theorem crRead_next {t r : Nat} {s s' : State} (h : crRead t r s = .next s') :
    ∃ th, s.fault = none ∧ s.threads[t]? = some th ∧ th.state = .idle ∧
      ((∃ c, s' = { s with fault := some c }) ∨
       ∃ v, s.crValue r = some v ∧ s' = s.emit (.ret t .crRead (.value v))) := by
  obtain ⟨hf, th, ht, hs, hk⟩ := threadStep_next.1 h
  refine ⟨th, hf, ht, hs, ?_⟩
  split at hk
  · rename_i v hv
    exact .inr ⟨v, hv, by simpa [eq_comm] using hk⟩
  · exact .inl ⟨_, raiseFault_next.1 hk⟩

/-- What REENABLE can answer (R205). -/
theorem reenable_next {t : Nat} {s s' : State} :
    reenable t s = .next s' ↔
      ∃ th, s.fault = none ∧ s.threads[t]? = some th ∧ th.state = .idle ∧ s' = { s with mods := 0 } := by
  simp only [reenable, threadStep_next, Host.Outcome.next.injEq]
  constructor
  · rintro ⟨hf, th, ht, hs, rfl⟩; exact ⟨th, hf, ht, hs, rfl⟩
  · rintro ⟨th, hf, ht, hs, rfl⟩; exact ⟨hf, th, ht, hs, rfl⟩

/-- What RESET can answer (R250). -/
theorem resetBy_next {t : Nat} {s s' : State} (h : resetBy t s = .next s') :
    ∃ th, s.fault = none ∧ s.threads[t]? = some th ∧ th.state = .idle ∧
      ((∃ c, s' = { s with fault := some c }) ∨
       (s.threadsWith (fun u st => u != t && st != .idle) = [] ∧ s' = resetState s)) := by
  obtain ⟨hf, th, ht, hs, hk⟩ := threadStep_next.1 h
  refine ⟨th, hf, ht, hs, ?_⟩
  simp only at hk
  split at hk
  · exact .inl ⟨_, raiseFault_next.1 hk⟩
  · rename_i hb
    exact .inr ⟨by simpa using hb, by simpa [eq_comm] using hk⟩

/-! ### The other agents -/

/-- What IRQRX can answer (R100, R101). -/
theorem execIrqrx_next {s s' : State} :
    execIrqrx s = .next s' ↔
      s.fault = none ∧ s.irqEn = true ∧ ∃ b err rest, s.linkRxq = (b, err) :: rest ∧
        s' = if err then rxDiscard rest s else rxPush b rest s := by
  unfold execIrqrx
  rw [whenRunning_next]
  cases hq : s.linkRxq with
  | nil => simp
  | cons c rest =>
    obtain ⟨b, err⟩ := c
    simp only [whenEnabled_next, Host.Outcome.next.injEq, List.cons.injEq, Prod.mk.injEq]
    constructor
    · rintro ⟨hf, hi, rfl⟩; exact ⟨hf, hi, b, err, rest, ⟨⟨rfl, rfl⟩, rfl⟩, rfl⟩
    · rintro ⟨hf, hi, b', err', rest', ⟨⟨rfl, rfl⟩, rfl⟩, rfl⟩; exact ⟨hf, hi, rfl⟩

/-- What SOFTB can answer (R105). -/
theorem execSoftb_next {s s' : State} :
    execSoftb s = .next s' ↔
      s.fault = none ∧ s.drActive = false ∧ s.softPend = true ∧ s' = drainBegin s := by
  simp only [execSoftb, whenRunning_next, whenEnabled_next, next_iff, Bool.and_eq_true, Bool.not_eq_true', and_assoc]

/-- What SOFTN can answer (R106). -/
theorem execSoftn_next {s s' : State} :
    execSoftn s = .next s' ↔
      s.fault = none ∧ s.drActive = true ∧ s' = decodeInto (s.ringRead s.get) (drainTake s) := by
  simp only [execSoftn, whenRunning_next, whenEnabled_next, next_iff]

/-- What TXI can answer (R176). -/
theorem execTxi_next {s s' : State} :
    execTxi s = .next s' ↔
      s.fault = none ∧ s.irqEn = true ∧ s.txrdy = true ∧ s.txBusy = true ∧ s' = txByte s := by
  simp only [execTxi, whenRunning_next, whenEnabled_next, next_iff, Bool.and_eq_true, and_assoc]

/-- What LRDY can answer (R41). -/
theorem execLrdy_next {s s' : State} :
    execLrdy s = .next s' ↔ s.fault = none ∧ s.txrdy = false ∧ s' = { s with txrdy := true } := by
  simp only [execLrdy, whenRunning_next, whenEnabled_next, next_iff, Bool.not_eq_true']

/-- What PAYLOAD can answer (R123). -/
theorem execPayload_next {b : Byte} {s s' : State} :
    execPayload b s = .next s' ↔
      s.fault = none ∧ s.decState = .assembling ∧ s' = decPayload b s := by
  simp only [execPayload, whenRunning_next, whenEnabled_next, next_iff, beq_iff_eq]

/-- What a step of the machine can be. -/
theorem step_next {s s' : State} (h : step s = .next s') :
    s.fault = none ∧
      ((∃ w rest i t, s.sched = .word w :: rest ∧ decodeWord s.nthreads w = some i ∧
          exec i s = .next t ∧ s' = t.advance) ∨
       (∃ a rest t, s.sched = a :: rest ∧ perform a s = .next t ∧ s' = t.advance)) := by
  unfold step at h
  obtain ⟨hf, hk⟩ := whenRunning_next.1 h
  refine ⟨hf, ?_⟩
  split at hk
  · cases hk
  · rename_i w rest hsched
    split at hk
    · rename_i i hi
      obtain ⟨t, ht, rfl⟩ := advanced_next.1 hk
      exact .inl ⟨w, rest, i, t, hsched, hi, ht, rfl⟩
    · cases hk
  · rename_i a rest _ hsched
    obtain ⟨t, ht, rfl⟩ := advanced_next.1 hk
    exact .inr ⟨a, rest, t, hsched, ht, rfl⟩

end Sys2Proof.Machine
end

