-- ==== Sys2Proof/Laws/Package.lean ====
section
/-! SUPPORT. The package buffer and HDR_TABLE, and which fields the decoder and the dispatcher write. -/

namespace Sys2Proof.Machine

/-! ### HDR_TABLE and the package buffer -/

theorem mem_of_lookup {l : List (Byte × HdrEntry)} {b : Byte} {e : HdrEntry}
    (h : l.lookup b = some e) : ∃ b', (b', e) ∈ l := by
  induction l with
  | nil => cases h
  | cons x l ih =>
    rw [List.lookup_cons] at h
    split at h
    · cases h; exact ⟨_, List.mem_cons_self⟩
    · obtain ⟨b', hb⟩ := ih h; exact ⟨b', List.mem_cons_of_mem _ hb⟩

/-- Package lengths are 2 to 8 (R44; log 25). -/
theorem hdrLookup_len {p : Params} (hw : p.wf) {b : Byte} {e : HdrEntry}
    (h : hdrLookup p b = some e) : 2 ≤ e.len.toNat ∧ e.len.toNat ≤ 8 := by
  obtain ⟨b', hb⟩ := mem_of_lookup h
  exact hw.2.2.2.2.2.2 _ hb

theorem pkgRead_pkgWrite (s : State) (i j : BitVec 4) (b : Byte) :
    (s.pkgWrite i b).pkgRead j = if pkgSlot i = pkgSlot j then b else s.pkgRead j := by
  simp only [State.pkgRead, State.pkgWrite, Vector.getElem_set]

/-- A write at an index below PKG_MAX. -/
theorem pkgWrite_eq {s : State} {i : BitVec 4} (b : Byte) (h : i.toNat < 8) :
    s.pkgWrite i b = { s with pkg := s.pkg.setIfInBounds i.toNat b } := by
  unfold State.pkgWrite
  congr 1
  apply Vector.ext
  intro j hj
  simp [pkgSlot, Nat.mod_eq_of_lt h, Vector.getElem_set, Vector.getElem_setIfInBounds]

/-- PKG[0 .. len-1] is the front of the buffer. -/
theorem pkgBytes_eq_take (s : State) (len : BitVec 4) (h : len.toNat ≤ 8) :
    s.pkgBytes len = s.pkg.toList.take len.toNat := by
  apply List.ext_getElem
  · simp [State.pkgBytes, h]
  · intro n h1 h2
    have h3 : n < 8 := by
      simp [State.pkgBytes] at h1
      omega
    simp [State.pkgBytes, State.pkgRead, pkgSlot, BitVec.toNat_ofNat]
    congr 1
    omega

/-! ### What the dispatcher and the decoder write -/

/-- Routing a key writes MODS, the history and the model's TIME fields at most. -/
theorem routeKey_frame (b : Byte) (s : State) :
    routeKey b s = { s with
      mods := (routeKey b s).mods, history := (routeKey b s).history
      timeIn := (routeKey b s).timeIn, draws := (routeKey b s).draws } := by
  rcases routeKey_cases b s with ⟨_, _, h⟩ | ⟨_, _, h⟩ | ⟨_, _, _, h⟩ | ⟨_, _, _, h⟩ |
    ⟨_, _, _, _, h⟩ | ⟨_, _, _, _, h⟩ <;> rw [h]
  case inr.inr.inr.inr.inl => split <;> rfl
  all_goals rfl

/-- A payload byte writes the package registers and the history at most. -/
theorem decPayload_frame (b : Byte) (s : State) :
    decPayload b s = { s with
      pkg := (decPayload b s).pkg, pkgIdx := (decPayload b s).pkgIdx
      decState := (decPayload b s).decState, history := (decPayload b s).history } := by
  rw [decPayload_eq]
  split
  · simp only
    split <;> rfl
  · rfl

end Sys2Proof.Machine
end

