-- ==== Sys2Proof/Laws/PerInstr.lean ====
section
/-! SUPPORT. A law of each instruction as syntax: with the default HDR_TABLE, the code of a well-formed
instruction has the width, the mask and the match of its row of spec/opcode_table.json. -/

namespace Sys2Proof.Laws.TableRow

/-- The width and the value of a code. -/
def bits : Code → Nat × Nat
  | .byte b => (8, b.toNat)
  | .word w => (16, w.toNat)

/-- The width, mask and match of an instruction's row of the opcode table. -/
def row : Instr → Nat × Nat × Nat
  | .hdrMem _ _ => (8, 0xFF, 0xF6)
  | .hdrAms _ _ => (8, 0xFF, 0xF7)
  | .hdrRms _ _ => (8, 0xFC, 0xF8)
  | .hdrClk _ _ => (8, 0xFF, 0xFC)
  | .hdrUnknown _ => (8, 0xFF, 0xFD)
  | .hdrJoy0 _ _ => (8, 0xFF, 0xFE)
  | .hdrJoy1 _ _ => (8, 0xFF, 0xFF)
  | .keyPress _ => (8, 0x80, 0x00)
  | .keyRelease _ => (8, 0x80, 0x80)
  | .payload _ => (8, 0x00, 0x00)
  | .rx _ => (16, 0xFF00, 0x0100)
  | .rxe _ => (16, 0xFF00, 0x0200)
  | .irqrx => (16, 0xFFFF, 0x0300)
  | .softb => (16, 0xFFFF, 0x0400)
  | .softn => (16, 0xFFFF, 0x0500)
  | .crw _ _ => (16, 0xFF00, 0x0600)
  | .crr _ => (16, 0xFF3F, 0x0700)
  | .send _ _ => (16, 0xFF00, 0x0800)
  | .acq _ => (16, 0xFF0F, 0x0900)
  | .sret _ => (16, 0xFF0F, 0x0A00)
  | .txi => (16, 0xFFFF, 0x0B00)
  | .lrdy => (16, 0xFFFF, 0x0C00)
  | .psend _ _ => (16, 0xFF00, 0x0D00)
  | .pstep _ => (16, 0xFF0F, 0x0E00)
  | .reen => (16, 0xFFFF, 0x0F00)
  | .reset => (16, 0xFFFF, 0x1000)
  | .evqf _ => (16, 0xFFFE, 0x1100)

/-- The code of the instruction matches its row. -/
def fits (i : Instr) : Bool :=
  (bits (encode i)).1 == (row i).1 && (bits (encode i)).2 &&& (row i).2.1 == (row i).2.2

/-- A well-formed instruction's code matches its row of the opcode table. -/
def Statement (i : Instr) : Prop :=
  ∀ (n : Nat) (st : DecState), wellFormed tableParams n st i = true → fits i = true

/-- The kind that the default HDR_TABLE gives a byte, `none` for a byte without an entry. -/
def kindAt (h : Byte) : Option Kind := (hdrLookup tableParams h).map HdrEntry.kind

theorem kindAt_of_headerOk {st : DecState} {k : Kind} {h : Byte} {len : BitVec 4}
    (w : headerOk tableParams st k h len = true) : kindAt h = some k := by
  simp only [headerOk, Bool.and_eq_true, beq_iff_eq] at w
  simp [kindAt, w.2]

theorem hdrMem (h : Byte) (len : BitVec 4) : Statement (.hdrMem h len) := by
  have key : ∀ h : Byte, kindAt h = some .mem → fits (.hdrMem h 0) = true := by decide +kernel
  exact fun _ _ w => key h (kindAt_of_headerOk w)

theorem hdrAms (h : Byte) (len : BitVec 4) : Statement (.hdrAms h len) := by
  have key : ∀ h : Byte, kindAt h = some .ams → fits (.hdrAms h 0) = true := by decide +kernel
  exact fun _ _ w => key h (kindAt_of_headerOk w)

theorem hdrRms (h : Byte) (len : BitVec 4) : Statement (.hdrRms h len) := by
  have key : ∀ h : Byte, kindAt h = some .rms → fits (.hdrRms h 0) = true := by decide +kernel
  exact fun _ _ w => key h (kindAt_of_headerOk w)

theorem hdrClk (h : Byte) (len : BitVec 4) : Statement (.hdrClk h len) := by
  have key : ∀ h : Byte, kindAt h = some .clk → fits (.hdrClk h 0) = true := by decide +kernel
  exact fun _ _ w => key h (kindAt_of_headerOk w)

theorem hdrUnknown (h : Byte) : Statement (.hdrUnknown h) := by
  have key : ∀ h : Byte, isHeader h = true → (hdrLookup tableParams h).isNone = true →
      fits (.hdrUnknown h) = true := by decide +kernel
  intro n st w
  simp only [wellFormed, Bool.and_eq_true] at w
  exact key h w.1.2 w.2

theorem hdrJoy0 (h : Byte) (len : BitVec 4) : Statement (.hdrJoy0 h len) := by
  have key : ∀ h : Byte, kindAt h = some .joy0 → fits (.hdrJoy0 h 0) = true := by decide +kernel
  exact fun _ _ w => key h (kindAt_of_headerOk w)

theorem hdrJoy1 (h : Byte) (len : BitVec 4) : Statement (.hdrJoy1 h len) := by
  have key : ∀ h : Byte, kindAt h = some .joy1 → fits (.hdrJoy1 h 0) = true := by decide +kernel
  exact fun _ _ w => key h (kindAt_of_headerOk w)

theorem keyPress (sc : ScanCode) : Statement (.keyPress sc) := by
  have key : ∀ sc : ScanCode, fits (.keyPress sc) = true := by decide +kernel
  exact fun _ _ _ => key sc

theorem keyRelease (sc : ScanCode) : Statement (.keyRelease sc) := by
  have key : ∀ sc : ScanCode, fits (.keyRelease sc) = true := by decide +kernel
  exact fun _ _ _ => key sc

theorem payload (data : Byte) : Statement (.payload data) := by
  have key : ∀ d : Byte, fits (.payload d) = true := by decide +kernel
  exact fun _ _ _ => key data

theorem rx (b : Byte) : Statement (.rx b) := by
  have key : ∀ b : Byte, fits (.rx b) = true := by decide +kernel
  exact fun _ _ _ => key b

theorem rxe (b : Byte) : Statement (.rxe b) := by
  have key : ∀ b : Byte, fits (.rxe b) = true := by decide +kernel
  exact fun _ _ _ => key b

theorem irqrx : Statement .irqrx := fun _ _ _ => by decide

theorem softb : Statement .softb := fun _ _ _ => by decide

theorem softn : Statement .softn := fun _ _ _ => by decide

theorem crw (r : BitVec 2) (v : BitVec 6) : Statement (.crw r v) := by
  have key : ∀ (r : BitVec 2) (v : BitVec 6), fits (.crw r v) = true := by decide +kernel
  exact fun _ _ _ => key r v

theorem crr (r : BitVec 2) : Statement (.crr r) := by
  have key : ∀ r : BitVec 2, fits (.crr r) = true := by decide +kernel
  exact fun _ _ _ => key r

theorem send (t len : BitVec 4) : Statement (.send t len) := by
  have key : ∀ t len : BitVec 4, fits (.send t len) = true := by decide +kernel
  exact fun _ _ _ => key t len

theorem acq (t : BitVec 4) : Statement (.acq t) := by
  have key : ∀ t : BitVec 4, fits (.acq t) = true := by decide +kernel
  exact fun _ _ _ => key t

theorem sret (t : BitVec 4) : Statement (.sret t) := by
  have key : ∀ t : BitVec 4, fits (.sret t) = true := by decide +kernel
  exact fun _ _ _ => key t

theorem txi : Statement .txi := fun _ _ _ => by decide

theorem lrdy : Statement .lrdy := fun _ _ _ => by decide

theorem psend (t len : BitVec 4) : Statement (.psend t len) := by
  have key : ∀ t len : BitVec 4, fits (.psend t len) = true := by decide +kernel
  exact fun _ _ _ => key t len

theorem pstep (t : BitVec 4) : Statement (.pstep t) := by
  have key : ∀ t : BitVec 4, fits (.pstep t) = true := by decide +kernel
  exact fun _ _ _ => key t

theorem reen : Statement .reen := fun _ _ _ => by decide

theorem reset : Statement .reset := fun _ _ _ => by decide

theorem evqf (v : Bool) : Statement (.evqf v) := by
  have key : ∀ v : Bool, fits (.evqf v) = true := by decide +kernel
  exact fun _ _ _ => key v

end Sys2Proof.Laws.TableRow
end

