-- ==== Sys2Proof/Laws/Threads.lean ====
section
/-! SUPPORT. The caller threads as a list: which thread meets a condition, which one a fault's info
names, and what replacing one thread changes. -/

namespace Sys2Proof.Machine

/-- Thread u meets `f` exactly when it exists and its TH_STATE does. -/
theorem threadIs_iff {s : State} {u : Nat} {f : ThState → Bool} :
    s.threadIs u f = true ↔ ∃ w, s.threads[u]? = some w ∧ f w.state = true := by
  unfold State.threadIs
  cases s.threads[u]? <;> simp

theorem mem_threadsWith {s : State} {f : Nat → ThState → Bool} {u : Nat} :
    u ∈ s.threadsWith f ↔ ∃ w, s.threads[u]? = some w ∧ f u w.state = true := by
  simp only [State.threadsWith, List.mem_filter, List.mem_range, threadIs_iff]
  constructor
  · rintro ⟨_, h⟩; exact h
  · rintro ⟨w, h, h'⟩; exact ⟨(List.getElem?_eq_some_iff.1 h).1, w, h, h'⟩

/-- "some u has TH_STATE[u] ..." (R180, R203, R250). -/
theorem threadsWith_ne_nil {s : State} {f : Nat → ThState → Bool} :
    s.threadsWith f ≠ [] ↔ ∃ u w, s.threads[u]? = some w ∧ f u w.state = true := by
  constructor
  · intro h
    obtain ⟨u, hu⟩ := List.exists_mem_of_ne_nil _ h
    exact ⟨u, mem_threadsWith.1 hu⟩
  · rintro ⟨u, h⟩
    exact List.ne_nil_of_mem (mem_threadsWith.2 h)

/-- The thread a fault's info names is one of those that qualify, if any does (log 10). -/
theorem pickThread_mem {s : State} {us : List Nat} (h : us ≠ []) : s.pickThread us ∈ us := by
  have hp : 0 < us.length := List.length_pos_iff.2 h
  unfold State.pickThread
  rw [List.getD_eq_getElem _ _ (Nat.mod_lt _ hp)]
  exact List.getElem_mem _

@[simp] theorem setThread_nthreads (s : State) (n : Nat) (th : Thread) :
    (s.setThread n th).nthreads = s.nthreads := by
  simp [State.nthreads]

/-- A thread of a state in which thread n has been replaced is the new one, or was there before. -/
theorem mem_setThread {s : State} {n : Nat} {x th : Thread} (h : th ∈ (s.setThread n x).threads) :
    th = x ∨ ∃ i, i ≠ n ∧ s.threads[i]? = some th := by
  obtain ⟨i, hi⟩ := List.mem_iff_getElem?.1 h
  rw [State.setThread_threads] at hi
  by_cases e : i = n
  · subst e
    rw [List.getElem?_set_self'] at hi
    simp at hi
    exact .inl hi.2.symm
  · rw [List.getElem?_set_ne (Ne.symm e)] at hi
    exact .inr ⟨i, e, hi⟩

theorem threadIs_setThread {s : State} {n u : Nat} {x : Thread} {f : ThState → Bool} :
    (s.setThread n x).threadIs u f = true ↔
      if u = n ∧ u < s.threads.length then f x.state = true else s.threadIs u f = true := by
  rw [threadIs_iff]
  simp only [State.setThread_threads, List.getElem?_set]
  by_cases e : n = u
  · subst e
    by_cases hl : n < s.threads.length
    · simp [hl]
    · simp [hl, threadIs_iff]
  · have h : ¬ (u = n ∧ u < s.threads.length) := fun h => e h.1.symm
    simp [e, h, threadIs_iff]

/-- The range check of `send` and `send_polling`, computed without wrap (R170). -/
theorem pastTop_iff {p : Params} {b : Nat} {l : Count} :
    pastTop p b l = true ↔ 2 ^ p.addrW < b + l.toNat := decide_eq_true_iff

theorem addrCut_of_lt {p : Params} {a : Nat} (h : a < 2 ^ p.addrW) : addrCut p a = a :=
  Nat.mod_eq_of_lt h

end Sys2Proof.Machine
end

