-- ==== Sys2Proof/Tests/Slice0.lean ====
section
/-! SUPPORT. Tests: ill-formed terms, codes written out from the spec's encodings, single steps from the
vectors of spec/95_test_vectors.md, and a witness for the hypotheses of each statement. -/

namespace Sys2Proof.Tests

open Sys2Proof.Machine

/-! ### Helpers -/

/-- RING_LOG2 = 2, POLL_TIMEOUT = 2, ADDR_W = 16, BUF_0 = 0x1000, BUF_1 = 0xFFFF, H = 7. -/
def params : Params :=
  { tableParams with ringLog2 := 2, addrW := 16, genHandle := 7, bufs := [0x1000, 0xFFFF] }

/-- Power-on with two threads, TXRDY = 1, and A0 A1 A2 at BUF_0. -/
def start : State :=
  { State.powerOn params 2 true false with
    mem := [(0x1000, 0xA0#8), (0x1001, 0xA1#8), (0x1002, 0xA2#8)] }

/-- Interrupts enabled. -/
def enabled : State := { start with irqEn := true }

/-- The thread registers of a call on BUF_0. -/
def call (st : ThState) (len : Count) : Thread := ⟨st, 0x1000, len, 0, 0⟩

def quiet : Thread := Thread.afterReset 0

/-- Thread 0 waits to acquire the channel for a command of `len` bytes. -/
def acquiring (len : Count) : State := { enabled with threads := [call .acq len, quiet] }

/-- Thread 0's transmission of three bytes, with `rem` bytes left. -/
def sending (rem : Count) (cursor : Nat) : State :=
  { enabled with
    txBusy := true, txRem := rem, txCursor := cursor, threads := [call .wait 3, quiet] }

/-- Thread 0 polls a command of two bytes, with `i` bytes sent and `n` failed checks. -/
def polling (i n : Count) : State :=
  { start with threads := [{ call .poll 2 with idx := i, spin := n }, quiet] }

/-- An AMS package with `idx` bytes stored. -/
def assembling (idx : BitVec 4) : State :=
  { start with
    decState := .assembling, pkgKind := .ams, pkgLen := 6, pkgIdx := idx
    pkg := #v[0xF7#8, 0x01#8, 0x02#8, 0x03#8, 0x04#8, 0, 0, 0] }

/-- A MEM package that misses its last byte. -/
def memPackage : State :=
  { assembling 7 with pkgKind := .mem, pkgLen := 8, pkg := #v[0xF6#8, 0, 0, 0, 0, 0, 0, 0] }

/-- Four bytes unread, of which the first two are a press of right shift and a letter key. -/
def draining : State :=
  { start with put := 4, ring := [0x36#8, 0x1E#8, 0xFD#8, 0xF7#8], drActive := true, drN := 4 }

/-- A view of the next state of one instruction; `none` if there is none. -/
def after {α : Type} (i : Instr) (s : State) (f : State → α) : Option α :=
  match exec i s with
  | .next t => some (f t)
  | _ => none

/-- The same of a schedule entry that is no word. -/
def afterAction {α : Type} (a : Machine.Action) (s : State) (f : State → α) : Option α :=
  match perform a s with
  | .next t => some (f t)
  | _ => none

/-- Whether an instruction is BLOCKED. -/
def isBlocked (i : Instr) (s : State) : Bool :=
  match exec i s with
  | .refused .blocked => true
  | _ => false

/-! ### WellFormed refuses an ill-formed term for each check -/

theorem test_ill_headers :
    wellFormed params 2 .idle (.hdrMem 0xF7 6) = false ∧ wellFormed params 2 .idle (.hdrAms 0xF7 7) = false ∧
    wellFormed params 2 .assembling (.hdrRms 0xF8 3) = false ∧ wellFormed params 2 .idle (.hdrClk 0x00 7) = false ∧
    wellFormed params 2 .idle (.hdrJoy0 0xFF 2) = false ∧ wellFormed params 2 .idle (.hdrJoy1 0xFD 2) = false ∧
    wellFormed params 2 .idle (.hdrUnknown 0xF6) = false ∧ wellFormed params 2 .idle (.hdrUnknown 0x1E) = false ∧
    wellFormed params 2 .assembling (.hdrUnknown 0xFD) = false := by decide

theorem test_ill_keys_and_payload :
    wellFormed params 2 .assembling (.keyPress 0x1E) = false ∧
    wellFormed params 2 .assembling (.keyRelease 0x1E) = false ∧
    wellFormed params 2 .idle (.keyRelease 0x76) = false ∧
    wellFormed params 2 .idle (.payload 0x00) = false := by decide

theorem test_ill_threads :
    wellFormed params 2 .idle (.send 2 1) = false ∧ wellFormed params 2 .idle (.acq 2) = false ∧
    wellFormed params 2 .idle (.sret 2) = false ∧ wellFormed params 2 .idle (.psend 2 1) = false ∧
    wellFormed params 2 .idle (.pstep 2) = false ∧ wellFormed params 2 .idle (.pstep 1) = true := by decide

/-! ### Every constructor's decoding, on codes written out from R81 to R85 and R92 -/

theorem test_decode_headers :
    decodeByte params .idle 0b11110110#8 = .hdrMem 0xF6 8 ∧ decodeByte params .idle 0b11110111#8 = .hdrAms 0xF7 6 ∧
    decodeByte params .idle 0b11111011#8 = .hdrRms 0xFB 3 ∧ decodeByte params .idle 0b11111100#8 = .hdrClk 0xFC 7 ∧
    decodeByte params .idle 0b11111101#8 = .hdrUnknown 0xFD ∧ decodeByte params .idle 0b11111110#8 = .hdrJoy0 0xFE 2 ∧
    decodeByte params .idle 0b11111111#8 = .hdrJoy1 0xFF 2 := by decide

theorem test_decode_keys_and_payload :
    decodeByte params .idle 0b00101010#8 = .keyPress 0x2A ∧ decodeByte params .idle 0b01111111#8 = .keyPress 0x7F ∧
    decodeByte params .idle 0b10000000#8 = .keyRelease 0x00 ∧ decodeByte params .idle 0b11110101#8 = .keyRelease 0x75 ∧
    decodeByte params .assembling 0b11110111#8 = .payload 0xF7 := by decide

/-- The words of programs P1 to P6 and of section 2.6. -/
theorem test_decode_words :
    decodeWord 2 0x012A#16 = some (.rx 0x2A) ∧ decodeWord 2 0x0205#16 = some (.rxe 0x05) ∧
    decodeWord 2 0x0300#16 = some .irqrx ∧ decodeWord 2 0x0400#16 = some .softb ∧
    decodeWord 2 0x0500#16 = some .softn ∧ decodeWord 2 0x0681#16 = some (.crw 2 1) ∧
    decodeWord 2 0x07C0#16 = some (.crr 3) ∧ decodeWord 2 0x0812#16 = some (.send 1 2) ∧
    decodeWord 2 0x0910#16 = some (.acq 1) ∧ decodeWord 2 0x0A10#16 = some (.sret 1) ∧
    decodeWord 2 0x0B00#16 = some .txi ∧ decodeWord 2 0x0C00#16 = some .lrdy ∧
    decodeWord 2 0x0D12#16 = some (.psend 1 2) ∧ decodeWord 2 0x0E10#16 = some (.pstep 1) ∧
    decodeWord 2 0x0F00#16 = some .reen ∧ decodeWord 2 0x1000#16 = some .reset ∧
    decodeWord 2 0x1101#16 = some (.evqf true) := by decide

/-- Section 2.6, with the boundaries of the reserved bits. -/
theorem test_refused_words :
    decodeWord 2 0x0000#16 = none ∧ decodeWord 2 0x1200#16 = none ∧ decodeWord 2 0x0301#16 = none ∧
    decodeWord 2 0x0901#16 = none ∧ decodeWord 2 0x0820#16 = none ∧ decodeWord 2 0x0701#16 = none ∧
    decodeWord 2 0x1102#16 = none ∧ decodeWord 16 0xFF00#16 = none := by decide

/-! ### One step of each instruction (spec/95_test_vectors.md) -/

theorem test_rx : after (.rx 0x1E) start (·.linkRxq) = some [(0x1E#8, false)] := by decide

theorem test_rxe : after (.rxe 0x55) start (·.linkRxq) = some [(0x55#8, true)] := by decide

/-- RB-1. -/
theorem test_irqrx_push :
    after .irqrx { enabled with linkRxq := [(0x1E#8, false)] } (fun t => (t.ring, t.put, t.softPend, t.linkRxq)) =
      some ([0x1E#8, 0, 0, 0], 1, true, []) := by decide

/-- RB-3. -/
theorem test_irqrx_blocked :
    isBlocked .irqrx { start with linkRxq := [(0x1E#8, false)] } = true := by decide

/-- RB-5: a loss skip. -/
theorem test_softb_overflow :
    after .softb { enabled with put := 6, softPend := true } (fun t => (t.get, t.drN, t.drActive, t.softPend)) =
      some (2, 4, true, false) := by decide

/-- RB-6: the counters wrap. -/
theorem test_softb_wrap :
    after .softb { start with put := 1, get := 0xFFFFFFFF#32, softPend := true } (fun t => (t.get, t.drN)) =
      some (0xFFFFFFFF#32, 2) := by decide

/-- RB-6 and W8: slot 3 is read, GET wraps, and the letter key goes to the terminal. -/
theorem test_softn_wrap :
    after .softn { start with put := 1, get := 0xFFFFFFFF#32, ring := [0, 0, 0, 0x1E#8], drActive := true, drN := 2 }
      (fun t => (t.get, t.drN, t.drActive, t.history)) = some (0, 1, true, [.term 0x1E#8]) := by decide

theorem test_softn_last_byte :
    after .softn { start with put := 1, ring := [0x2A#8, 0, 0, 0], drActive := true, drN := 1 }
      (fun t => (t.get, t.drN, t.drActive, t.mods)) = some (1, 0, false, 1) := by decide

/-- CV-1. -/
theorem test_crw_mode : after (.crw 0 1) start (fun t => (t.mode, t.fault)) = some (1, none) := by decide

/-- CV-2 to CV-5. -/
theorem test_crw_faults :
    [after (.crw 0 3) start (·.fault), after (.crw 0 4) start (·.fault), after (.crw 3 0) start (·.fault),
      after (.crw 1 2) start (·.fault)] =
    [some (some ⟨.modeReserved, 0⟩), some (some ⟨.crWrite, 0⟩), some (some ⟨.crWrite, 3⟩),
      some (some ⟨.crWrite, 1⟩)] := by decide

/-- P1, position 8. -/
theorem test_crr :
    after (.crr 3) { start with mods := 1 } (·.history) = some [.ret 0 .crRead (.value 0x01#8)] := by decide

/-- TV-7: the buffer would pass the top of the address space. -/
theorem test_send_range : after (.send 1 2) enabled (·.fault) = some (some ⟨.cmdRange, 1⟩) := by decide

/-- TV-7b: it ends at the top. -/
theorem test_send_top :
    after (.send 1 1) enabled (fun t => (t.fault, t.threads)) = some (none, [quiet, ⟨.acq, 0xFFFF, 1, 0, 0⟩]) := by
  decide

/-- TV-2. -/
theorem test_acq_ready :
    after (.acq 0) (acquiring 3) (fun t => ((t.history, t.txrdy, t.txCursor), t.txRem, t.txBusy, t.threads)) =
      some (([.linkTx 0xA0#8], false, 0x1001), 2, true, [call .wait 3, quiet]) := by decide

/-- TV-3. -/
theorem test_acq_not_ready :
    after (.acq 0) { acquiring 2 with txrdy := false } (fun t => (t.history, t.txBusy, t.txRem, t.txCursor)) =
      some ([], true, 2, 0x1000) := by decide

/-- TV-1: the return after a one-byte command. -/
theorem test_sret :
    after (.sret 0) { enabled with threads := [call .wait 1, quiet] } (fun t => (t.history, t.threads)) =
      some ([.ret 0 .send .ok], [call .idle 1, quiet]) := by decide

/-- TV-2 (cont.). -/
theorem test_sret_blocked : isBlocked (.sret 0) (sending 2 0x1001) = true := by decide

/-- TV-2 (cont.): the last byte clears TX_BUSY. -/
theorem test_txi_last :
    after .txi (sending 1 0x1002) (fun t => (t.history, t.txrdy, t.txCursor, t.txRem, t.txBusy)) =
      some ([.linkTx 0xA2#8], false, 0x1003, 0, false) := by decide

theorem test_lrdy : after .lrdy { start with txrdy := false } (·.txrdy) = some true := by decide

/-- Section 2.6: 0x0C00 when TXRDY = 1. -/
theorem test_lrdy_blocked : isBlocked .lrdy start = true := by decide

/-- PV-1. -/
theorem test_psend : after (.psend 0 2) start (·.threads) = some [call .poll 2, quiet] := by decide

/-- PV-4, PV-5. -/
theorem test_psend_faults :
    after (.psend 0 1) enabled (·.fault) = some (some ⟨.pollIrqOn, 0⟩) ∧
    after (.psend 1 1) (polling 0 0) (·.fault) = some (some ⟨.pollBusy, 1⟩) := by decide

/-- PV-1: the last byte. -/
theorem test_pstep_last :
    after (.pstep 0) (polling 1 1) (fun t => (t.history, t.txrdy, t.threads)) =
      some ([.linkTx 0xA1#8, .ret 0 .sendPoll .ok], false, [⟨.idle, 0x1000, 2, 2, 0⟩, quiet]) := by decide

/-- PV-2: the second failed check. -/
theorem test_pstep_timeout :
    after (.pstep 0) { polling 0 1 with txrdy := false } (fun t => (t.history, t.threads)) =
      some ([.ret 0 .sendPoll .fail], [⟨.idle, 0x1000, 2, 0, 2⟩, quiet]) := by decide

/-- MV-7. -/
theorem test_reen : after .reen { start with mods := 0x11 } (·.mods) = some 0 := by decide

/-- CV-9. -/
theorem test_reset :
    after .reset { assembling 3 with mode := 1, genPresent := true, irqEn := true, mods := 5, put := 9, get := 9 }
      (fun t => ((t.mode, t.genPresent, t.irqEn, t.mods), t.put, t.get, t.decState, t.txrdy)) =
      some ((0, false, false, 0), 0, 0, .idle, true) := by decide

/-- CV-10: the code; the info names thread 1, which a free value picks among the one that qualifies. -/
theorem test_reset_busy :
    after .reset { enabled with threads := [quiet, call .acq 1] } (fun t => t.fault.map (·.code)) =
      some (some .resetBusy) := by decide

theorem test_evqf : after (.evqf true) start (·.evqFull) = some true := by decide

/-- W7, step 1. -/
theorem test_hdrAms :
    after (.hdrAms 0xF7 6) start (fun t => (t.decState, t.pkgKind, t.pkgLen, t.pkgIdx, t.pkg.toList.take 1)) =
      some (.assembling, .ams, 6, 1, [0xF7#8]) := by decide

theorem test_other_headers :
    [after (.hdrMem 0xF6 8) start (fun t => (t.pkgKind, t.pkgLen)), after (.hdrRms 0xF9 3) start (fun t => (t.pkgKind, t.pkgLen)),
      after (.hdrClk 0xFC 7) start (fun t => (t.pkgKind, t.pkgLen)), after (.hdrJoy0 0xFE 2) start (fun t => (t.pkgKind, t.pkgLen)),
      after (.hdrJoy1 0xFF 2) start (fun t => (t.pkgKind, t.pkgLen))] =
    [some (.mem, 8), some (.rms, 3), some (.clk, 7), some (.joy0, 2), some (.joy1, 2)] := by decide

/-- DV-7. -/
theorem test_hdrUnknown :
    after (.hdrUnknown 0xFD) start (fun t => (t.history, t.decState)) =
      some ([.diag .unknownHeader 0xFD#8], .idle) := by decide

/-- W7, step 6. -/
theorem test_payload_last :
    after (.payload 0x05) (assembling 5) (fun t => (t.history, t.decState, t.pkgIdx)) =
      some ([.ptr .ams 6 [0xF7#8, 0x01#8, 0x02#8, 0x03#8, 0x04#8, 0x05#8]], .idle, 0) := by decide

/-- DV-10: a header value inside a package is data. -/
theorem test_payload_header_value :
    after (.payload 0xF8) (assembling 3) (fun t => (t.history, t.decState, t.pkgIdx, t.pkg.toList.drop 3)) =
      some ([], .assembling, 4, [0xF8#8, 0x04#8, 0, 0, 0]) := by decide

/-- The table of section 2.3, the rows PASS and GEN_PRESENT = 0, 1. -/
theorem test_keyPress :
    after (.keyPress 0x2A) start (fun t => (t.history, t.mods)) = some ([], 1) ∧
    after (.keyPress 0x2A) { start with genPresent := true } (fun t => (t.history, t.mods)) =
      some ([.gen 7 .down 0x2A#7], 0) := by decide

/-- The table of section 2.3, the rows EVENT (with the TIME 26 of program P2) and POLL. -/
theorem test_keyRelease :
    after (.keyRelease 0x1E) { start with mode := 1, timeIn := some 26 } (·.history) = some [.ev 0x1E#7 0 26] ∧
    after (.keyRelease 0x1E) { start with mode := 1, evqFull := true } (·.history) = some [.diag .evqFull 0x1E#8] ∧
    after (.keyRelease 0x1E) { start with mode := 2, genPresent := true } (·.history) = some [.term 0x9E#8] := by
  decide

/-- The words run as the first step after reset. -/
theorem test_step_from_reset :
    (match step (State.reset.withFetchWord 16 0x0681) with
     | .next t => t.irqEn
     | _ => false) = true ∧
    (match step (State.reset.withFetchWord 8 0xF7) with
     | .next t => t.decState == .assembling && t.pkgKind == .ams && t.sched == []
     | _ => false) = true := by decide +kernel

/-! ### Witnesses: states and operands that meet the hypotheses of the statements -/

theorem wit_params : params.wf := by decide

theorem wit_acquiring : (acquiring 3).Inv :=
  ⟨by decide, by decide, by decide, by decide, by decide, by decide, by decide⟩

theorem wit_acquiring_one : (acquiring 1).Inv :=
  ⟨by decide, by decide, by decide, by decide, by decide, by decide, by decide⟩

theorem wit_sending : (sending 1 0x1002).Inv :=
  ⟨by decide, by decide, by decide, by decide, by decide, by decide, by decide⟩

theorem wit_polling : (polling 0 0).Inv :=
  ⟨by decide, by decide, by decide, by decide, by decide, by decide, by decide⟩

theorem wit_polling_last : (polling 1 1).Inv :=
  ⟨by decide, by decide, by decide, by decide, by decide, by decide, by decide⟩

theorem wit_assembling : (assembling 4).Inv ∧ (assembling 5).Inv :=
  ⟨⟨by decide, by decide, by decide, by decide, by decide, by decide, by decide⟩,
    ⟨by decide, by decide, by decide, by decide, by decide, by decide, by decide⟩⟩

theorem wit_memPackage : memPackage.Inv :=
  ⟨by decide, by decide, by decide, by decide, by decide, by decide, by decide⟩

/-- DecodeOfEncodeIsIdentity, at the ends of the ranges. -/
theorem wit_decode_of_encode :
    wellFormed params 2 .idle (.keyRelease 0x75) = true ∧ wellFormed params 2 .idle (.hdrMem 0xF6 8) = true ∧
    wellFormed params 2 .idle (.hdrJoy1 0xFF 2) = true ∧ wellFormed params 2 .idle (.pstep 1) = true := by decide

/-- EncodeOfDecodeIsIdentity. -/
theorem wit_encode_of_decode :
    decode params 2 .idle (.byte 0xF5#8) = some (.keyRelease 0x75) ∧
    decode params 2 .idle (.word 0x1101#16) = some (.evqf true) := by decide

/-- StimulusDecoderRefusesExactlyTheReserved, StepRunsWhatIsScheduled. -/
theorem wit_scheduled :
    (State.withFetchWord start 16 0x1200).fault = none ∧
    (State.withFetchWord start 16 0x1200).sched = [.word 0x1200#16] ∧ decodeWord start.nthreads 0x1200#16 = none ∧
    decodeWord start.nthreads 0x0100#16 = some (.rx 0) ∧
    (∀ w, Action.bell ≠ .word w) := ⟨by decide, by decide, by decide, by decide, fun _ h => by cases h⟩

/-- BytesAreClassifiedByValue, at the ends of each range. -/
theorem wit_bytes :
    (0x7F#8).toNat < 0x80 ∧ 0x80 ≤ (0x80#8).toNat ∧ (0xF5#8).toNat < 0xF6 ∧ 0xF6 ≤ (0xFD#8).toNat ∧
    hdrLookup params 0xFD#8 = none ∧ hdrLookup params 0xF6#8 = some ⟨.mem, 8⟩ ∧ hdrLookup params 0xF7#8 = some ⟨.ams, 6⟩ ∧
    hdrLookup params 0xF8#8 = some ⟨.rms, 3⟩ ∧ hdrLookup params 0xFC#8 = some ⟨.clk, 7⟩ ∧
    hdrLookup params 0xFE#8 = some ⟨.joy0, 2⟩ ∧ hdrLookup params 0xFF#8 = some ⟨.joy1, 2⟩ := by decide

/-- FaultedBlockTakesNoStep. -/
theorem wit_faulted : ({ start with fault := some ⟨.pollBusy, 0⟩ } : State).fault = some ⟨.pollBusy, 0⟩ := rfl

/-- RaisingAFaultDiscardsTheStep: both parts. -/
theorem wit_raise :
    after (.crw 0 3) start (fun t => t.fault != none) = some true ∧
    (match perform (.crRead 1 4) start with
     | .next t => t.fault != none
     | _ => false) = true := by decide

/-- FalseGuardsBlock: a state for each clause. -/
theorem wit_guards :
    start.fault = none ∧ start.irqEn = false ∧ enabled.linkRxq = [] ∧ start.softPend = false ∧
    draining.drActive = true ∧ start.drActive = false ∧ start.txBusy = false ∧ start.txrdy = true ∧
    (acquiring 1).threads[0]? = some (call .acq 1) ∧ (call .acq 1).state ≠ .idle ∧ (call .acq 1).state ≠ .wait ∧
    (call .acq 1).state ≠ .poll ∧ (sending 1 0x1002).threads[0]? = some (call .wait 3) ∧
    (call .wait 3).state ≠ .acq ∧ (sending 1 0x1002).txBusy = true := by decide

/-- IrqrxPushesAGoodByte, IrqrxDropsABadByte. -/
theorem wit_irqrx :
    enabled.cfg.wf ∧ ({ enabled with linkRxq := [(0x10#8, false)] } : State).linkRxq = (0x10#8, false) :: [] ∧
    ({ enabled with linkRxq := [(0x10#8, true)] } : State).linkRxq = (0x10#8, true) :: [] ∧
    enabled.fault = none ∧ enabled.irqEn = true := by decide

/-- SoftbTakesTheCappedCount: RING_SIZE unread bytes, and one more. -/
theorem wit_softb :
    ({ start with put := 4, softPend := true } : State).cfg.wf ∧ (4 - 0 : Count).toNat ≤ start.cfg.ringSize ∧
    start.cfg.ringSize < (5 - 0 : Count).toNat ∧ start.drActive = false ∧ start.fault = none := by decide

/-- SoftnRunsTheByteItReads. -/
theorem wit_softn : draining.cfg.wf ∧ draining.fault = none ∧ draining.drActive = true := by decide

/-- DrainFindsExactlyThePushedBytes with RING_SIZE bytes; OverflowKeepsTheNewestBytes with one more. -/
theorem wit_drain :
    enabled.cfg.wf ∧ enabled.ring.length = enabled.cfg.ringSize ∧ enabled.fault = none ∧ enabled.irqEn = true ∧
    enabled.drActive = false ∧ enabled.put = enabled.get ∧
    [(0x10#8, false), (0x11#8, false)] = [0x10#8, 0x11#8].map (fun b => (b, false)) ∧
    [0x10#8, 0x11#8, 0x12#8, 0x13#8].length ≤ enabled.cfg.ringSize ∧
    enabled.cfg.ringSize < [0x10#8, 0x11#8, 0x12#8, 0x13#8, 0x14#8].length := by decide

/-- HeadersStartAPackage, UnknownHeaderIsReported, and the keys: a running block in IDLE. -/
theorem wit_idle : start.fault = none ∧ start.decState = .idle := by decide

/-- PayloadIsStoredAndCompletes: the byte before the last, the last of a pointer package and of MEM. -/
theorem wit_payload :
    (assembling 4).pkgIdx.toNat + 1 < (assembling 4).pkgLen.toNat ∧
    (assembling 5).pkgIdx.toNat + 1 = (assembling 5).pkgLen.toNat ∧ (assembling 5).pkgKind ≠ .mem ∧
    (assembling 5).pkgKind ≠ .clk ∧ memPackage.pkgIdx.toNat + 1 = memPackage.pkgLen.toNat ∧
    memPackage.pkgKind = .mem ∧ (assembling 4).fault = none ∧ (assembling 4).decState = .assembling := by decide

/-- PackageIsDispatchedWhole, for the shortest and the longest package. -/
theorem wit_package :
    isHeader 0xFE#8 = true ∧ hdrLookup start.cfg 0xFE#8 = some ⟨.joy0, 2⟩ ∧ [0x7F#8].length + 1 = (2#4).toNat ∧
    isHeader 0xF6#8 = true ∧ hdrLookup start.cfg 0xF6#8 = some ⟨.mem, 8⟩ ∧
    (List.replicate 7 0xFF#8).length + 1 = (8#4).toNat := by decide

/-- NoShortPackageIsDispatched. -/
theorem wit_no_short :
    after (.payload 0x05) (assembling 5) (emitted (assembling 5)) =
      some [.ptr .ams 6 [0xF7#8, 0x01#8, 0x02#8, 0x03#8, 0x04#8, 0x05#8]] := by decide

/-- EventModeRecordsTheKey, FullEventQueueDropsTheKey, GenericSinkTakesTheKey. -/
theorem wit_routes :
    ({ start with mode := 1 } : State).mode = 1 ∧ ({ start with mode := 1 } : State).evqFull = false ∧
    ({ start with mode := 1, evqFull := true } : State).evqFull = true ∧
    ({ start with genPresent := true } : State).mode = 0 := by decide

/-- The terminal path, in MODE = PASS and in MODE = POLL with the generic sink attached; a key that is
no modifier; the four held modifiers. -/
theorem wit_terminal :
    start.TerminalPath ∧ ({ start with mode := 2, genPresent := true } : State).TerminalPath ∧
    0x1E#7 ∉ start.cfg.modCodes ∧ 0x2A#7 = start.cfg.lshiftSc ∧ 0x36#7 = start.cfg.rshiftSc ∧
    0x1D#7 = start.cfg.ctrlSc ∧ 0x38#7 = start.cfg.altSc := by decide

/-- EveryKeyTakesExactlyOnePath, ModsChangeOnlyOnTheTerminalPath. -/
theorem wit_mods : after (.keyPress 0x2A) start (fun t => decide (t.mods ≠ start.mods)) = some true := by decide

/-- OnlyTwoDiagnosticsAreEmitted: each of the two. -/
theorem wit_diag :
    wellFormed start.cfg start.nthreads start.decState (.hdrUnknown 0xFD) = true ∧
    after (.hdrUnknown 0xFD) start (emitted start) = some [.diag .unknownHeader 0xFD#8] ∧
    after (.keyPress 0x1E) { start with mode := 1, evqFull := true } (emitted start) =
      some [.diag .evqFull 0x1E#8] := by decide

/-- The control statements: T0 in IDLE, with and without calls of thread 1 that forbid a write. -/
theorem wit_control :
    start.ThreadAt 0 .idle quiet ∧ start.ThreadAt 1 .idle quiet ∧ (2#6).toNat ≤ 2 ∧ (1#6).toNat ≤ 1 ∧
    start.txBusy = false ∧ (∀ u ∈ start.threads, u.state = .idle) ∧ (∀ u ∈ start.threads, u.state ≠ .acq) ∧
    (∃ u ∈ [quiet, call .acq 1], u.state = .acq) ∧ (∃ u ∈ [quiet, call .poll 1], u.state = .poll) ∧
    ({ enabled with threads := [quiet, call .acq 1] } : State).ThreadAt 0 .idle quiet ∧
    ({ start with threads := [quiet, call .poll 1] } : State).ThreadAt 0 .idle quiet := by decide

/-- SendCallChecksThenWaitsToAcquire, SendWordCallsSend, and the polled pair: each clause, with the
buffer that ends at the top and the one that passes it. -/
theorem wit_calls :
    start.ThreadAt 1 .idle quiet ∧ 0xFFFF < 2 ^ start.cfg.addrW ∧ 0xFFFF + (1 : Count).toNat ≤ 2 ^ start.cfg.addrW ∧
    2 ^ start.cfg.addrW < 0xFFFF + (2 : Count).toNat ∧ start.irqEn = false ∧ enabled.irqEn = true ∧
    start.cfg.bufs.getD (1#4).toNat 0 + (1#4).toNat ≤ 2 ^ start.cfg.addrW ∧
    start.threads[(1#4).toNat]? = some quiet ∧ (polling 0 0).ThreadAt 1 .idle quiet ∧
    (polling 0 0).threads[0]? = some (call .poll 2) ∧ (call .poll 2).state ≠ .idle ∧ start.txBusy = false := by decide

/-- AcquireStartsTheTransmission, both levels of TXRDY, and a one-byte command. -/
theorem wit_acquire :
    (acquiring 3).ThreadAt (0#4).toNat .acq (call .acq 3) ∧ (acquiring 3).txBusy = false ∧
    (acquiring 3).txrdy = true ∧ (acquiring 1).ThreadAt (0#4).toNat .acq (call .acq 1) ∧
    ({ acquiring 3 with txrdy := false } : State).txrdy = false := by decide

/-- SretReturnsOk, TxiSendsTheNextByte. -/
theorem wit_transmit :
    ({ sending 1 0x1002 with txBusy := false } : State).ThreadAt (0#4).toNat .wait (call .wait 3) ∧
    (sending 1 0x1002).irqEn = true ∧ (sending 1 0x1002).txrdy = true ∧ (sending 1 0x1002).txBusy = true := by
  decide

/-- PstepSendsOrCountsAFailedCheck: each of the four clauses. -/
theorem wit_pstep :
    (polling 0 0).ThreadAt (0#4).toNat .poll (call .poll 2) ∧ (0 : Count).toNat + 1 < (2 : Count).toNat ∧
    (polling 1 1).ThreadAt (0#4).toNat .poll ⟨.poll, 0x1000, 2, 1, 1⟩ ∧ (1 : Count).toNat + 1 = (2 : Count).toNat ∧
    (polling 0 0).txrdy = true ∧ ({ polling 0 0 with txrdy := false } : State).txrdy = false ∧
    ((0 : Count) + 1).toNat ≠ start.cfg.pollTimeout ∧ ((1 : Count) + 1).toNat = start.cfg.pollTimeout := by decide

/-- PolledSendIsAloneOnTheLink, LinkTxNeedsAndClearsTxrdy: the word and the schedule entry. -/
theorem wit_polled :
    (polling 0 0).ThreadAt 0 .poll (call .poll 2) ∧
    after (.pstep 0) (polling 0 0) (emitted (polling 0 0)) = some [.linkTx 0xA0#8] ∧
    after (.pstep 0) (polling 0 0) (·.txrdy) = some false ∧
    afterAction (.pollStep 0) (polling 0 0) (emitted (polling 0 0)) = some [.linkTx 0xA0#8] ∧
    afterAction (.acquire 0) (acquiring 3) (·.txrdy) = some false := by decide

/-- SendEmitsItsBufferInOrder: the last byte of three (`wit_sending`), and a whole call of three bytes. -/
theorem wit_send :
    after .txi (sending 1 0x1002) (emitted (sending 1 0x1002)) = some [.linkTx 0xA2#8] ∧
    (acquiring 3).ThreadAt (0#4).toNat .acq (call .acq 3) ∧ (acquiring 3).txBusy = false ∧
    (acquiring 3).txrdy = true := by decide

/-- TransmitterSharesNoStateWithTheReceiver: two states that agree on one side and differ on the other,
with a step of that side that completes; and a transmitter entry that is no word. -/
theorem wit_two_states :
    (sending 1 0x1002).SameTransmitter
      { sending 1 0x1002 with put := 9, decState := .assembling, mode := 1, mods := 3, history := [.term 0x1E#8] } ∧
    (draining.SameReceiver { draining with txBusy := true, txRem := 2, threads := [call .wait 3], txrdy := false }) ∧
    (after .softn draining (fun _ => ())).isSome = true ∧ isTransmitAction (.acquire 0) = true ∧
    (afterAction (.acquire 0) (acquiring 3) (fun _ => ())).isSome = true := by decide

/-- EnvironmentRequestsChangeOneInput: a store at the top address, with every thread IDLE. -/
theorem wit_store :
    start.MemInv ∧ 0xFFFF < 2 ^ start.cfg.addrW ∧
    (∀ th ∈ start.threads, th.state ≠ .idle → 0xFFFF < th.base ∨ th.base + th.len.toNat ≤ 0xFFFF) := by decide

/-- The whole-machine statements: an instruction of each kind answers a next state. -/
theorem wit_machine :
    (after .irqrx { enabled with linkRxq := [(0x10#8, false)] } (fun _ => ())).isSome = true ∧
    (after .softb { start with put := 1, softPend := true } (fun _ => ())).isSome = true ∧
    (after .txi (sending 1 0x1002) (fun _ => ())).isSome = true ∧ isTransmitWord .txi = true ∧
    isSoftWord .softb = true ∧ isSoftWord .reen = false := by decide

/-- HistoryOnlyGrows, EveryStepKeepsTheInvariant: a step from a state that satisfies the invariant. -/
theorem wit_step :
    (match step (State.withFetchWord (polling 1 1) 16 0x0E00) with
     | .next t => t.history.length == 2
     | _ => false) = true := by decide

/-- PowerOnStateEnablesOnlyInputsAndCalls. -/
theorem wit_power_on :
    isStimulusWord (.acq 1) = true ∧ wellFormed params 2 .idle (.acq 1) = true ∧
    isBlocked (.evqf true) (State.powerOn params 2 true false) = false := by decide

end Sys2Proof.Tests
end

section
/-! The slots of the ring (20_memory.md R61). -/

namespace Sys2Proof.Machine

theorem ringMask_toNat {p : Params} (h : p.ringLog2 ≤ 31) : (ringMask p).toNat = p.ringSize - 1 := by
  have hlt : 2 ^ p.ringLog2 < 2 ^ 32 := Nat.pow_lt_pow_right (by decide) (by omega)
  rw [ringMask, BitVec.toNat_ofNat, Nat.mod_eq_of_lt (by omega), Params.ringSize]

theorem ringSlot_eq_and_ringMask {p : Params} (h : p.ringLog2 ≤ 31) (i : Count) :
    ringSlot p i = (i &&& ringMask p).toNat := by
  rw [BitVec.toNat_and, ringMask_toNat h, Params.ringSize, Nat.and_two_pow_sub_one_eq_mod, ringSlot,
    Params.ringSize]

/-- Indices wrap modulo 2^IDX_W, a multiple of RING_SIZE, so the wrap does not move the slot. -/
theorem ringSlot_add_mul_ringSize {p : Params} (h : p.ringLog2 ≤ 31) (i : Count) (k : Nat) :
    ringSlot p (i + BitVec.ofNat 32 (k * p.ringSize)) = ringSlot p i := by
  have hdvd : p.ringSize ∣ 2 ^ 32 := Nat.pow_dvd_pow 2 (by omega)
  calc ringSlot p (i + BitVec.ofNat 32 (k * p.ringSize))
      = (i.toNat + k * p.ringSize) % 2 ^ 32 % p.ringSize := by
        rw [ringSlot, BitVec.toNat_add, BitVec.toNat_ofNat, Nat.add_mod_mod]
    _ = (i.toNat + k * p.ringSize) % p.ringSize := Nat.mod_mod_of_dvd _ hdvd
    _ = ringSlot p i := Nat.add_mul_mod_self_right ..

/-- Settles O12: RING_MASK has the low RING_LOG2 bits set, and RING_SIZE divides 2^32. -/
theorem ringSlotIsIndexAndMask : Obligations.RingSlotIsIndexAndMask := by
  rintro p i ⟨-, hlog, -⟩
  exact ⟨ringSlot_eq_and_ringMask hlog i, ringSlot_add_mul_ringSize hlog i⟩

end Sys2Proof.Machine
end

section
/-! Which registers each agent's operations write, as frames: an equation `t = { s with f := t.f, … }`
says that the step from s to t writes none but the fields it lists. -/

namespace Sys2Proof.Machine

/-! ### The transmitter (44_output.md) -/

/-- What the transmitter may write: its own registers, the threads, TXRDY, the history and FAULT. -/
abbrev State.TransmitFrame (s t : State) : Prop :=
  t = { s with
    txBusy := t.txBusy, txCursor := t.txCursor, txRem := t.txRem, threads := t.threads
    txrdy := t.txrdy, history := t.history, fault := t.fault }

theorem sendCall_frame {n base : Nat} {len : Count} {s t : State}
    (h : sendCall n base len s = .next t) : s.TransmitFrame t := by
  obtain ⟨th, -, -, -, ⟨c, rfl⟩ | ⟨-, -, -, rfl⟩⟩ := sendCall_next h <;> rfl

theorem sendPolling_frame {n base : Nat} {len : Count} {s t : State}
    (h : sendPolling n base len s = .next t) : s.TransmitFrame t := by
  obtain ⟨th, -, -, -, ⟨c, rfl⟩ | ⟨-, -, -, -, -, rfl⟩⟩ := sendPolling_next h <;> rfl

theorem txFirst_acquired_frame (n : Nat) (th : Thread) (s : State) :
    s.TransmitFrame (txFirst (acquired n th s)) := by
  unfold txFirst
  split <;> rfl

theorem acquire_frame {n : Nat} {s t : State} (h : acquire n s = .next t) : s.TransmitFrame t := by
  obtain ⟨th, -, -, -, -, rfl⟩ := acquire_next.1 h
  exact txFirst_acquired_frame n th s

theorem sendReturn_frame {n : Nat} {s t : State} (h : sendReturn n s = .next t) :
    s.TransmitFrame t := by
  obtain ⟨th, -, -, -, -, rfl⟩ := sendReturn_next.1 h
  rfl

theorem pollWrite_frame (n : Nat) (th : Thread) (s : State) : s.TransmitFrame (pollWrite n th s) := by
  unfold pollWrite
  dsimp only
  split <;> rfl

theorem pollFail_frame (n : Nat) (th : Thread) (s : State) : s.TransmitFrame (pollFail n th s) := by
  unfold pollFail
  split <;> rfl

theorem pollStep_frame {n : Nat} {s t : State} (h : pollStep n s = .next t) : s.TransmitFrame t := by
  obtain ⟨th, -, -, -, rfl⟩ := pollStep_next.1 h
  split
  · exact pollWrite_frame n th s
  · exact pollFail_frame n th s

theorem execTxi_frame {s t : State} (h : execTxi s = .next t) : s.TransmitFrame t := by
  obtain ⟨-, -, -, -, rfl⟩ := execTxi_next.1 h
  rfl

theorem execLrdy_frame {s t : State} (h : execLrdy s = .next t) : s.TransmitFrame t := by
  obtain ⟨-, -, rfl⟩ := execLrdy_next.1 h
  rfl

/-! ### SOFT: the decoder, the dispatcher and the drain (41_ring.md to 43_dispatch.md) -/

/-- What DECODE may write: the package registers, MODS, the history and the model's TIME fields. -/
abbrev State.DecodeFrame (s t : State) : Prop :=
  t = { s with
    decState := t.decState, pkgKind := t.pkgKind, pkgLen := t.pkgLen, pkgIdx := t.pkgIdx
    pkg := t.pkg, mods := t.mods, history := t.history, timeIn := t.timeIn, draws := t.draws }

theorem routeKey_decodeFrame (b : Byte) (s : State) : s.DecodeFrame (routeKey b s) := by
  unfold State.DecodeFrame
  rw [routeKey_frame]

theorem decPayload_decodeFrame (b : Byte) (s : State) : s.DecodeFrame (decPayload b s) := by
  unfold State.DecodeFrame
  rw [decPayload_frame]

theorem decHeader_decodeFrame (b : Byte) (k : Kind) (len : BitVec 4) (s : State) :
    s.DecodeFrame (decHeader b k len s) := rfl

theorem decUnknown_decodeFrame (b : Byte) (s : State) : s.DecodeFrame (decUnknown b s) := rfl

theorem decodeInto_decodeFrame (b : Byte) (s : State) : s.DecodeFrame (decodeInto b s) := by
  rcases decodeInto_cases b s with ⟨-, h⟩ | ⟨-, -, -, h⟩ | ⟨e, -, -, -, h⟩ | ⟨-, -, h⟩ <;> rw [h]
  · exact decPayload_decodeFrame b s
  · exact decUnknown_decodeFrame b s
  · exact decHeader_decodeFrame b e.kind e.len s
  · exact routeKey_decodeFrame b s

theorem inIdle_decodeFrame {s t u : State} (hu : s.DecodeFrame u) (h : inIdle s u = .next t) :
    s.DecodeFrame t := by
  obtain ⟨-, -, rfl⟩ := inIdle_next.1 h
  exact hu

/-- What SOFT may write: what DECODE may, with GET, DR_ACTIVE and DR_N; SOFT_PEND it may clear. -/
abbrev State.SoftFrame (s t : State) : Prop :=
  t = { s with
    get := t.get, softPend := t.softPend, drActive := t.drActive, drN := t.drN
    decState := t.decState, pkgKind := t.pkgKind, pkgLen := t.pkgLen, pkgIdx := t.pkgIdx
    pkg := t.pkg, mods := t.mods, history := t.history, timeIn := t.timeIn, draws := t.draws } ∧
  (t.softPend = true → s.softPend = true)

theorem State.DecodeFrame.softFrame {s t : State} (h : s.DecodeFrame t) : s.SoftFrame t := by
  rw [State.SoftFrame, h]
  exact ⟨rfl, id⟩

theorem drainBegin_softFrame (s : State) : s.SoftFrame (drainBegin s) := by
  unfold drainBegin
  dsimp only
  split <;> exact ⟨rfl, Bool.noConfusion⟩

/-- DRAIN_NEXT: the ring's part, then DECODE (R106). -/
theorem decodeInto_drainTake_softFrame (b : Byte) (s : State) :
    s.SoftFrame (decodeInto b (drainTake s)) := by
  rw [State.SoftFrame, decodeInto_decodeFrame b (drainTake s)]
  exact ⟨rfl, id⟩

theorem softWord_frame {i : Instr} {s t : State} (hi : isSoftWord i = true) (h : exec i s = .next t) :
    s.SoftFrame t := by
  cases i with
  | softb =>
    obtain ⟨-, -, -, rfl⟩ := execSoftb_next.1 h
    exact drainBegin_softFrame s
  | softn =>
    obtain ⟨-, -, rfl⟩ := execSoftn_next.1 h
    exact decodeInto_drainTake_softFrame _ s
  | payload b =>
    obtain ⟨-, -, rfl⟩ := execPayload_next.1 h
    exact (decPayload_decodeFrame b s).softFrame
  | hdrUnknown b => exact (inIdle_decodeFrame (decUnknown_decodeFrame b s) h).softFrame
  | keyPress sc | keyRelease sc => exact (inIdle_decodeFrame (routeKey_decodeFrame _ s) h).softFrame
  | hdrMem b len | hdrAms b len | hdrRms b len | hdrClk b len | hdrJoy0 b len | hdrJoy1 b len =>
    exact (inIdle_decodeFrame (decHeader_decodeFrame b _ len s) h).softFrame
  | _ => cases hi

/-! ### IRQ's receive step (41_ring.md) -/

/-- IRQRX writes PUT, RING, SOFT_PEND and LINK_RXQ at most (R100, R101). -/
theorem execIrqrx_frame {s t : State} (h : execIrqrx s = .next t) :
    t = { s with put := t.put, ring := t.ring, softPend := t.softPend, linkRxq := t.linkRxq } := by
  obtain ⟨-, -, b, err, rest, -, rfl⟩ := execIrqrx_next.1 h
  split <;> rfl

/-! ### The callers, the link and the environment -/

/-- A step that writes no register of the ring or the decoder, and not MODS (R69). -/
abbrev State.OutsideReceiver (s t : State) : Prop :=
  t = { s with
    mode := t.mode, genPresent := t.genPresent, irqEn := t.irqEn, txBusy := t.txBusy
    txCursor := t.txCursor, txRem := t.txRem, threads := t.threads, fault := t.fault
    linkRxq := t.linkRxq, txrdy := t.txrdy, evqFull := t.evqFull, mem := t.mem
    history := t.history, timeIn := t.timeIn }

theorem State.TransmitFrame.outsideReceiver {s t : State} (h : s.TransmitFrame t) :
    s.OutsideReceiver t := by
  rw [State.OutsideReceiver, h]

theorem crWrite_outsideReceiver {n r v : Nat} {s t : State} (h : crWrite n r v s = .next t) :
    s.OutsideReceiver t := by
  obtain ⟨th, -, -, -, ⟨c, rfl⟩ | ⟨-, -, rfl⟩ | ⟨-, -, rfl⟩ | ⟨-, -, hirq⟩⟩ := crWrite_next h
  · rfl
  · rfl
  · rfl
  · obtain ⟨c, rfl⟩ | ⟨-, -, rfl⟩ := irqEnWrite_next hirq <;> rfl

theorem crRead_outsideReceiver {n r : Nat} {s t : State} (h : crRead n r s = .next t) :
    s.OutsideReceiver t := by
  obtain ⟨th, -, -, -, ⟨c, rfl⟩ | ⟨v, -, rfl⟩⟩ := crRead_next h <;> rfl

theorem reenable_eq {n : Nat} {s t : State} (h : reenable n s = .next t) : t = { s with mods := 0 } := by
  obtain ⟨th, -, -, -, ht⟩ := reenable_next.1 h
  exact ht

theorem supplyTime_outsideReceiver {time : Nat} {s t : State} (h : supplyTime time s = .next t) :
    s.OutsideReceiver t := by
  obtain ⟨-, ht⟩ := whenRunning_next.1 h
  obtain rfl := next_iff.1 ht
  rfl

theorem callerStore_outsideReceiver {a : Nat} {b : Byte} {s t : State}
    (h : callerStore a b s = .next t) : s.OutsideReceiver t := by
  obtain ⟨-, ht⟩ := whenRunning_next.1 h
  split_ifs at ht
  obtain rfl := next_iff.1 ht
  rfl

theorem refuseRequest_ne_next {r : Refusal} {s t : State} : refuseRequest r s ≠ .next t := by
  simp [refuseRequest, whenRunning_next]

/-! ### The writers of the ring, the decoder and MODS (20_memory.md R69) -/

/-- Which of R69's writers an instruction other than RESET is. -/
theorem exec_writers {i : Instr} {s t : State} (h : exec i s = .next t) (hi : i ≠ .reset) :
    (isSoftWord i = true ∧ s.SoftFrame t) ∨
    (i = .irqrx ∧
      t = { s with put := t.put, ring := t.ring, softPend := t.softPend, linkRxq := t.linkRxq }) ∨
    (i = .reen ∧ t = { s with mods := 0 }) ∨ s.OutsideReceiver t := by
  by_cases hsoft : isSoftWord i = true
  · exact .inl ⟨hsoft, softWord_frame hsoft h⟩
  refine .inr ?_
  cases i with
  | irqrx => exact .inl ⟨rfl, execIrqrx_frame h⟩
  | reen => exact .inr (.inl ⟨rfl, reenable_eq h⟩)
  | reset => exact absurd rfl hi
  | rx b | rxe b | evqf v =>
    obtain ⟨-, ht⟩ := whenRunning_next.1 h
    obtain rfl := next_iff.1 ht
    exact .inr (.inr rfl)
  | crw r v => exact .inr (.inr (crWrite_outsideReceiver h))
  | crr r => exact .inr (.inr (crRead_outsideReceiver h))
  | send n len => exact .inr (.inr (sendCall_frame h).outsideReceiver)
  | psend n len => exact .inr (.inr (sendPolling_frame h).outsideReceiver)
  | acq n => exact .inr (.inr (acquire_frame h).outsideReceiver)
  | sret n => exact .inr (.inr (sendReturn_frame h).outsideReceiver)
  | pstep n => exact .inr (.inr (pollStep_frame h).outsideReceiver)
  | txi => exact .inr (.inr (execTxi_frame h).outsideReceiver)
  | lrdy => exact .inr (.inr (execLrdy_frame h).outsideReceiver)
  | _ => exact absurd rfl hsoft

/-- Which of R69's writers a schedule entry that is no word and no RESET is: REENABLE or none. -/
theorem perform_writers {a : Action} {s t : State} (h : perform a s = .next t)
    (ha : ∀ n, a ≠ .reset n) :
    ((∃ n, a = .reenable n) ∧ t = { s with mods := 0 }) ∨ s.OutsideReceiver t := by
  cases a with
  | word w => cases h
  | crWrite n r v => exact .inr (crWrite_outsideReceiver h)
  | crRead n r => exact .inr (crRead_outsideReceiver h)
  | reenable n => exact .inl ⟨⟨n, rfl⟩, reenable_eq h⟩
  | reset n => exact absurd rfl (ha n)
  | send n base len => exact .inr (sendCall_frame h).outsideReceiver
  | sendPolling n base len => exact .inr (sendPolling_frame h).outsideReceiver
  | acquire n => exact .inr (acquire_frame h).outsideReceiver
  | sendReturn n => exact .inr (sendReturn_frame h).outsideReceiver
  | pollStep n => exact .inr (pollStep_frame h).outsideReceiver
  | supplyTime time => exact .inr (supplyTime_outsideReceiver h)
  | callerStore x b => exact .inr (callerStore_outsideReceiver h)
  | bell | consoleReadKey | registerAccess x => exact absurd h refuseRequest_ne_next

/-- Settles O52: each writer's frame keeps the registers that R69 gives to the others. -/
theorem singleWritersOfTheRingAndTheDecoder : Obligations.SingleWritersOfTheRingAndTheDecoder := by
  refine ⟨fun i s t h hi => ?_, fun a s t h ha => ?_⟩
  · rcases exec_writers h hi with ⟨hsoft, ht, hpend⟩ | ⟨rfl, ht⟩ | ⟨rfl, ht⟩ | ht
    · have hput : t.put = s.put := by rw [ht]
      have hring : t.ring = s.ring := by rw [ht]
      exact ⟨fun _ => ⟨hput, hring, hpend⟩, fun hno => by simp [hsoft] at hno⟩
    · rw [ht]; simp
    · rw [ht]; simp
    · rw [ht]; simp
  · rcases perform_writers h ha with ⟨⟨n, rfl⟩, ht⟩ | ht
    · rw [ht]; simp
    · rw [ht]; simp

end Sys2Proof.Machine
end

section
/-! The decoders of 30_encoding.md on the numeric values of bytes and words. -/

namespace Sys2Proof

/-! ### Received bytes (R81 to R85) -/

theorem isHeader_iff {b : Byte} : isHeader b = true ↔ 0xF6 ≤ b.toNat := by
  simp [isHeader, hdrMin, BitVec.ule]

theorem isHeader_eq_false {b : Byte} (h : b.toNat < 0xF6) : isHeader b = false := by
  rw [← Bool.not_eq_true, isHeader_iff]
  omega

theorem released_iff {b : Byte} : released b = true ↔ 0x80 ≤ b.toNat := by
  rw [released, ← BitVec.msb_eq_getLsbD_last b, BitVec.msb_eq_decide]
  simp

theorem released_eq_false {b : Byte} (h : b.toNat < 0x80) : released b = false := by
  rw [← Bool.not_eq_true, released_iff]
  omega

theorem scancode_toNat (b : Byte) : (scancode b).toNat = b.toNat % 0x80 := by
  simp [scancode, BitVec.extractLsb'_toNat]

/-- A release code is its scan code above the release bit 0x80. -/
theorem scancode_of_released {b : Byte} (h : 0x80 ≤ b.toNat) :
    scancode b = BitVec.ofNat 7 (b.toNat - 0x80) := by
  apply BitVec.eq_of_toNat_eq
  rw [scancode_toNat, BitVec.toNat_ofNat]
  omega

theorem scancode_eq_ofNat (b : Byte) : scancode b = BitVec.ofNat 7 b.toNat := by
  apply BitVec.eq_of_toNat_eq
  rw [scancode_toNat, BitVec.toNat_ofNat]

/-! Decoding a byte, an equation per class of R84. -/

@[simp] theorem decodeByte_assembling (p : Params) (b : Byte) :
    decodeByte p .assembling b = .payload b := rfl

theorem decodeByte_press (p : Params) {b : Byte} (h : b.toNat < 0x80) :
    decodeByte p .idle b = .keyPress (scancode b) := by
  have hhdr : isHeader b = false := isHeader_eq_false (by omega)
  simp [decodeByte, classify, classInstr, hhdr, released_eq_false h]

theorem decodeByte_release (p : Params) {b : Byte} (hlo : 0x80 ≤ b.toNat) (hhi : b.toNat < 0xF6) :
    decodeByte p .idle b = .keyRelease (scancode b) := by
  simp [decodeByte, classify, classInstr, isHeader_eq_false hhi, released_iff.2 hlo]

theorem decodeByte_unknownHeader {p : Params} {b : Byte} (h : 0xF6 ≤ b.toNat)
    (hent : hdrLookup p b = none) : decodeByte p .idle b = .hdrUnknown b := by
  simp [decodeByte, classify, classInstr, isHeader_iff.2 h, hent]

theorem decodeByte_knownHeader {p : Params} {b : Byte} {e : HdrEntry} (h : 0xF6 ≤ b.toNat)
    (hent : hdrLookup p b = some e) :
    decodeByte p .idle b = classInstr b (.hdrKnown e.kind e.len) := by
  simp [decodeByte, classify, isHeader_iff.2 h, hent]

/-- Settles O7: the equation of each class, with the scan codes as numbers. -/
theorem bytesAreClassifiedByValue : Obligations.BytesAreClassifiedByValue := by
  intro p b
  refine ⟨decodeByte_assembling p b, fun h => ?press, fun ⟨hlo, hhi⟩ => ?release,
    decodeByte_unknownHeader, fun len h => ?header⟩
  case press => rw [decodeByte_press p h, scancode_eq_ofNat]
  case release => rw [decodeByte_release p hlo hhi, scancode_of_released hlo]
  case header =>
    have known (k : Kind) (hent : hdrLookup p b = some ⟨k, len⟩) :
        decodeByte p .idle b = classInstr b (.hdrKnown k len) := decodeByte_knownHeader h hent
    exact ⟨known .mem, known .ams, known .rms, known .clk, known .joy0, known .joy1⟩

/-! ### Stimulus words (R91, R92, R95) -/

theorem ifZero_eq_none {n : Nat} {r : BitVec n} {i : Instr} : ifZero r i = none ↔ r.toNat ≠ 0 := by
  simp [ifZero, BitVec.toNat_eq]

theorem ifZero_eq_some {n : Nat} {r : BitVec n} {i j : Instr} :
    ifZero r i = some j ↔ r.toNat = 0 ∧ i = j := by
  simp [ifZero, BitVec.toNat_eq]

theorem immHi_toNat (i : Byte) : (immHi i).toNat = i.toNat / 16 := by
  rw [immHi, BitVec.extractLsb'_toNat, Nat.shiftRight_eq_div_pow]
  omega

theorem immLo_toNat (i : Byte) : (immLo i).toNat = i.toNat % 16 := by
  simp [immLo, BitVec.extractLsb'_toNat]

theorem immVal_toNat (i : Byte) : (immVal i).toNat = i.toNat % 64 := by
  simp [immVal, BitVec.extractLsb'_toNat]

/-- The bits of EVQF's immediate that R92 gives as 0. -/
theorem evqfReserved_toNat (i : Byte) : (i.extractLsb' 1 7).toNat = i.toNat / 2 := by
  rw [BitVec.extractLsb'_toNat, Nat.shiftRight_eq_div_pow]
  omega

/-- The opcodes without an operation, and the immediates with a non-zero reserved bit (R92, R95). -/
abbrev ReservedCode (op imm : Nat) : Prop :=
  op = 0 ∨ 0x12 ≤ op ∨
  (op ∈ [0x03, 0x04, 0x05, 0x0B, 0x0C, 0x0F, 0x10] ∧ imm ≠ 0) ∨
  (op = 0x07 ∧ imm % 64 ≠ 0) ∨
  (op ∈ [0x09, 0x0A, 0x0E] ∧ imm % 16 ≠ 0) ∨
  (op = 0x11 ∧ 2 ≤ imm)

/-- The opcodes whose words name a thread in imm[7:4] (R92). -/
abbrev NamesThread (op : Nat) : Prop := op ∈ [0x08, 0x09, 0x0A, 0x0D, 0x0E]

/-- The opcode table refuses exactly the reserved codes. -/
theorem decodeOp_eq_none_iff {op imm : Byte} :
    decodeOp op imm = none ↔ ReservedCode op.toNat imm.toNat := by
  have hevqf : imm.toNat / 2 ≠ 0 ↔ 2 ≤ imm.toNat := by omega
  unfold decodeOp
  split
  case h_18 =>
    have hop : op.toNat = 0 ∨ 0x12 ≤ op.toNat := by
      simp only [imp_false] at *
      omega
    exact iff_of_true rfl (hop.imp_right .inl)
  case h_17 hop =>
    rw [ifZero_eq_none, evqfReserved_toNat, hevqf]
    simp [ReservedCode, hop]
  all_goals
    rename_i hop
    simp [ReservedCode, hop, ifZero_eq_none, immLo_toNat, immVal_toNat]

/-- The thread that a decoded word names. -/
theorem namedThread_of_decodeOp {op imm : Byte} {i : Instr} (h : decodeOp op imm = some i) :
    namedThread i = if NamesThread op.toNat then some (immHi imm) else none := by
  unfold decodeOp at h
  split at h
  case h_18 => cases h
  case h_1 hop | h_2 hop | h_6 hop | h_8 hop | h_13 hop =>
    cases h
    simp [hop, namedThread]
  all_goals
    rename_i hop
    obtain ⟨-, rfl⟩ := ifZero_eq_some.1 h
    simp [hop, namedThread]

theorem threadOk_eq_false {n : Nat} {i : Instr} :
    threadOk n i = false ↔ ∃ t, namedThread i = some t ∧ n ≤ t.toNat := by
  unfold threadOk
  cases namedThread i <;> simp

theorem decodeWord_eq_none_iff {n : Nat} {w : StimWord} :
    decodeWord n w = none ↔
      ReservedCode (stimOp w).toNat (stimImm w).toNat ∨
        (NamesThread (stimOp w).toNat ∧ n ≤ (stimImm w).toNat / 16) := by
  rw [← decodeOp_eq_none_iff, ← immHi_toNat]
  unfold decodeWord
  cases h : decodeOp (stimOp w) (stimImm w) with
  | none => simp
  | some i => simp [threadOk_eq_false, namedThread_of_decodeOp h]

/-- A refused word at the head of the schedule stops a running block as REFUSED (R95). -/
theorem Machine.step_refused_word {s : Machine.State} {w : StimWord} {rest : List Machine.Action}
    (hf : s.fault = none) (hs : s.sched = .word w :: rest) (hw : decodeWord s.nthreads w = none) :
    Machine.step s = .refused (.illFormedWord w) := by
  simp [Machine.step, hf, hs, hw]

/-- Settles O4: the opcode table refuses the reserved codes, the thread bound the threads. -/
theorem stimulusDecoderRefusesExactlyTheReserved :
    Obligations.StimulusDecoderRefusesExactlyTheReserved := by
  refine ⟨fun n w => ?_, fun s w rest => Machine.step_refused_word⟩
  rw [decodeWord_eq_none_iff, stimOp_toNat, stimImm_toNat]
  simp only [ReservedCode, NamesThread, or_assoc]

/-! ### The byte rows of the opcode table (R96) -/

/-- A masked byte is at most the byte, so a row whose match is above the byte does not match it. -/
theorem matchesByte_eq_false_of_lt {r : ByteRow} {b : Byte} (st : DecState)
    (h : b.toNat < r.value.toNat) : r.matchesByte st b = false := by
  have hle : (b &&& r.mask).toNat ≤ b.toNat := by
    rw [BitVec.toNat_and]
    exact Nat.and_le_left
  have hne : b &&& r.mask ≠ r.value := by
    intro heq
    rw [heq] at hle
    omega
  simp [ByteRow.matchesByte, hne]

/-- Below HDR_MIN only the rows after the seven header rows are left. -/
theorem matchingRows_of_lt_hdrMin {st : DecState} {b : Byte} (h : b.toNat < 0xF6) :
    byteRows.filter (·.matchesByte st b) = (byteRows.drop 7).filter (·.matchesByte st b) := by
  have hmatch : ∀ r ∈ byteRows.take 7, 0xF6 ≤ r.value.toNat := by decide
  have hnil : (byteRows.take 7).filter (·.matchesByte st b) = [] := by
    refine List.filter_eq_nil_iff.2 fun r hr => ?_
    have hlt : b.toNat < r.value.toNat := h.trans_le (hmatch r hr)
    simp [matchesByte_eq_false_of_lt st hlt]
  calc byteRows.filter (·.matchesByte st b)
      = (byteRows.take 7 ++ byteRows.drop 7).filter (·.matchesByte st b) := by
        rw [List.take_append_drop]
    _ = (byteRows.drop 7).filter (·.matchesByte st b) := by
        rw [List.filter_append, hnil, List.nil_append]

/-- A single matching row has the lowest priority number. -/
theorem rowsFor_of_single_match {st : DecState} {b : Byte} {r : ByteRow}
    (h : byteRows.filter (·.matchesByte st b) = [r]) : rowsFor st b = [r] := by
  simp [rowsFor, h]

/-- The mask 0x80 keeps the release bit. -/
theorem and_releaseBit (b : Byte) : b &&& 0x80#8 = if released b then 0x80#8 else 0#8 :=
  BitVec.and_twoPow b 7

theorem rowsFor_assembling (b : Byte) :
    (rowsFor .assembling b).map ByteRow.mnemonic = ["PAYLOAD"] := by
  have hsingle : byteRows.filter (·.matchesByte .assembling b) =
      [⟨.assembling, 0, 0x00#8, 0x00#8, 0x00#8, 0xFF#8, "PAYLOAD"⟩] := by
    have hhi : b.toNat ≤ 255 := by omega
    simp [byteRows, ByteRow.matchesByte, BitVec.ule, hhi]
  rw [rowsFor_of_single_match hsingle]
  rfl

theorem rowsFor_press {b : Byte} (h : b.toNat < 0x80) :
    (rowsFor .idle b).map ByteRow.mnemonic = ["KEY_PRESS"] := by
  have hsingle : byteRows.filter (·.matchesByte .idle b) =
      [⟨.idle, 1, 0x80#8, 0x00#8, 0x00#8, 0x7F#8, "KEY_PRESS"⟩] := by
    have hhi : b.toNat ≤ 127 := by omega
    rw [matchingRows_of_lt_hdrMin (by omega)]
    simp [byteRows, ByteRow.matchesByte, and_releaseBit, released_eq_false h, BitVec.ule, hhi]
  rw [rowsFor_of_single_match hsingle]
  rfl

theorem rowsFor_release {b : Byte} (hlo : 0x80 ≤ b.toNat) (hhi : b.toNat < 0xF6) :
    (rowsFor .idle b).map ByteRow.mnemonic = ["KEY_RELEASE"] := by
  have hsingle : byteRows.filter (·.matchesByte .idle b) =
      [⟨.idle, 1, 0x80#8, 0x80#8, 0x80#8, 0xF5#8, "KEY_RELEASE"⟩] := by
    have hle : b.toNat ≤ 245 := by omega
    rw [matchingRows_of_lt_hdrMin hhi]
    simp [byteRows, ByteRow.matchesByte, and_releaseBit, released_iff.2 hlo, BitVec.ule, hlo, hle]
  rw [rowsFor_of_single_match hsingle]
  rfl

/-- The ten header values, with the default HDR_TABLE. -/
theorem rowsFor_header {b : Byte} (h : 0xF6 ≤ b.toNat) :
    (rowsFor .idle b).map ByteRow.mnemonic = [mnemonic (decodeByte tableParams .idle b)] := by
  have values : ∀ c ∈
      [0xF6#8, 0xF7#8, 0xF8#8, 0xF9#8, 0xFA#8, 0xFB#8, 0xFC#8, 0xFD#8, 0xFE#8, 0xFF#8],
      (rowsFor .idle c).map ByteRow.mnemonic = [mnemonic (decodeByte tableParams .idle c)] := by
    decide
  apply values
  simp only [List.mem_cons, BitVec.toNat_eq, BitVec.toNat_ofNat, List.not_mem_nil, or_false]
  omega

/-- Settles O5: each class of R84 has one row of the table. -/
theorem exactlyOneByteRowResults : Obligations.ExactlyOneByteRowResults := by
  intro st b
  cases st with
  | assembling => rw [rowsFor_assembling, decodeByte_assembling]; rfl
  | idle =>
    by_cases hhdr : 0xF6 ≤ b.toNat
    · exact rowsFor_header hhdr
    by_cases hrel : 0x80 ≤ b.toNat
    · rw [rowsFor_release hrel (by omega), decodeByte_release _ hrel (by omega)]; rfl
    · rw [rowsFor_press (by omega), decodeByte_press _ (by omega)]; rfl

/-! ### The default HDR_TABLE and the kind codes (R85, R86; log 13) -/

theorem hdrLookup_reset (b : Byte) :
    hdrLookup Machine.State.reset.cfg b = defaultHdrTable.lookup b := rfl

/-- Settles O6: each header value looked up in the default table, and the code of each kind. -/
theorem defaultHeaderTable : Obligations.DefaultHeaderTable := by
  refine ⟨?table, ?codes⟩
  case table =>
    simp only [hdrLookup_reset]
    decide
  case codes => rfl

end Sys2Proof
end

section
/-! The ring's operations (41_ring.md): receive and discard, the snapshot, and the drain with DECODE. -/

namespace Sys2Proof

/-! ### A key code put together from its parts (R81) -/

theorem press_append_scancode {b : Byte} (h : released b = false) : 0#1 ++ scancode b = b := by
  revert b; decide

theorem release_append_scancode {b : Byte} (h : released b = true) : 1#1 ++ scancode b = b := by
  revert b; decide

end Sys2Proof

namespace Sys2Proof.Machine

/-! ### Receive and discard (R100, R101) -/

theorem rxPush_eq {s : State} (h : s.cfg.wf) (b : Byte) (rest : List (Byte × Bool)) :
    rxPush b rest s = { s with
      linkRxq := rest, ring := s.ring.set (s.put &&& ringMask s.cfg).toNat b
      put := s.put + 1, softPend := true } := by
  obtain ⟨-, hlog, -⟩ := h
  rw [← ringSlot_eq_and_ringMask hlog]
  rfl

theorem exec_irqrx {s : State} {b : Byte} {err : Bool} {rest : List (Byte × Bool)}
    (hf : s.fault = none) (hirq : s.irqEn = true) (hq : s.linkRxq = (b, err) :: rest) :
    exec .irqrx s = .next (if err then rxDiscard rest s else rxPush b rest s) :=
  execIrqrx_next.2 ⟨hf, hirq, b, err, rest, hq, rfl⟩

/-- Settles O13: the pair without the error flag is pushed, into the slot that R61 gives PUT. -/
theorem irqrxPushesAGoodByte : Obligations.IrqrxPushesAGoodByte := by
  intro s b rest hwf hf hirq hq
  calc exec .irqrx s = .next (rxPush b rest s) := exec_irqrx hf hirq hq
    _ = _ := by rw [rxPush_eq hwf]

/-- Settles O14: the pair with the error flag is discarded, and RX_DISCARD writes LINK_RXQ only. -/
theorem irqrxDropsABadByte : Obligations.IrqrxDropsABadByte :=
  fun _ _ _ hf hirq hq => exec_irqrx hf hirq hq

/-! ### The snapshot (R105) -/

theorem ringSizeW_ne_zero {p : Params} (h : p.ringLog2 ≤ 31) : ringSizeW p ≠ 0 := by
  have hlt : p.ringSize < 2 ^ 32 := Nat.pow_lt_pow_right (by decide) (by omega)
  have hpos : 0 < p.ringSize := Nat.two_pow_pos _
  rw [ne_eq, BitVec.toNat_eq, ringSizeW, BitVec.toNat_ofNat, Nat.mod_eq_of_lt hlt]
  exact hpos.ne'

theorem unread_bne_zero (s : State) : (unread s != 0) = decide (s.put ≠ s.get) := by
  rw [Bool.eq_iff_iff, bne_iff_ne, decide_eq_true_iff]
  exact sub_ne_zero

/-- Without a loss the drain gets every unread byte. -/
theorem drainBegin_of_le {s : State} (h : (unread s).toNat ≤ s.cfg.ringSize) :
    drainBegin s = { s with
      softPend := false, drN := unread s, drActive := decide (s.put ≠ s.get) } := by
  rw [drainBegin, if_neg (Nat.not_lt.2 h), unread_bne_zero]

/-- On a loss the drain gets the newest RING_SIZE bytes. -/
theorem drainBegin_of_lt {s : State} (hlog : s.cfg.ringLog2 ≤ 31)
    (h : s.cfg.ringSize < (unread s).toNat) :
    drainBegin s = { s with
      softPend := false, get := s.put - ringSizeW s.cfg, drN := ringSizeW s.cfg
      drActive := true } := by
  rw [drainBegin, if_pos h, bne_iff_ne.2 (ringSizeW_ne_zero hlog)]

/-- Settles O15: the snapshot with its count capped at RING_SIZE. -/
theorem softbTakesTheCappedCount : Obligations.SoftbTakesTheCappedCount := by
  rintro s ⟨-, hlog, -⟩ hf hact hpend
  have hrun : exec .softb s = .next (drainBegin s) := execSoftb_next.2 ⟨hf, hact, hpend, rfl⟩
  refine ⟨fun hle => ?all, fun hlt => ?newest⟩
  case all => rw [hrun, drainBegin_of_le hle]; rfl
  case newest => rw [hrun, drainBegin_of_lt hlog hlt]; rfl

/-! ### The drain, with DECODE in the same step (R106, R120) -/

/-- Each header class of a known kind runs DEC_HEADER with that kind (R122). -/
theorem exec_knownHeader {s : State} (hf : s.fault = none) (hidle : s.decState = .idle) (b : Byte)
    (k : Kind) (len : BitVec 4) :
    exec (classInstr b (.hdrKnown k len)) s = .next (decHeader b k len s) := by
  cases k <;> exact inIdle_next.2 ⟨hf, hidle, rfl⟩

/-- A byte below HDR_MIN is a key code, press or release, and runs DEC_KEY on the whole code (R121). -/
theorem exec_decodeByte_key {s : State} {b : Byte} (hf : s.fault = none) (hidle : s.decState = .idle)
    (hhdr : isHeader b = false) : exec (decodeByte s.cfg .idle b) s = .next (routeKey b s) := by
  have hhi : b.toNat < 0xF6 := by
    rwa [← Bool.not_eq_true, isHeader_iff, Nat.not_le] at hhdr
  by_cases hlo : 0x80 ≤ b.toNat
  · rw [decodeByte_release _ hlo hhi]
    refine inIdle_next.2 ⟨hf, hidle, ?_⟩
    rw [release_append_scancode (released_iff.2 hlo), decKey]
  · rw [decodeByte_press _ (Nat.lt_of_not_le hlo)]
    refine inIdle_next.2 ⟨hf, hidle, ?_⟩
    rw [press_append_scancode (released_eq_false (Nat.lt_of_not_le hlo)), decKey]

/-- The instruction that a byte is in the decoder's state does what DECODE does with the byte (R120). -/
theorem exec_decodeByte {s : State} (hf : s.fault = none) (b : Byte) :
    exec (decodeByte s.cfg s.decState b) s = .next (decodeInto b s) := by
  rcases decodeInto_cases b s with ⟨hst, h⟩ | ⟨hst, hhdr, hent, h⟩ | ⟨e, hst, hhdr, hent, h⟩ |
    ⟨hst, hhdr, h⟩ <;> rw [h, hst]
  · exact execPayload_next.2 ⟨hf, hst, rfl⟩
  · rw [decodeByte_unknownHeader (isHeader_iff.1 hhdr) hent]
    exact inIdle_next.2 ⟨hf, hst, rfl⟩
  · rw [decodeByte_knownHeader (isHeader_iff.1 hhdr) hent]
    exact exec_knownHeader hf hst b e.kind e.len
  · exact exec_decodeByte_key hf hst hhdr

theorem decodeInto_fault (b : Byte) (s : State) : (decodeInto b s).fault = s.fault := by
  rw [decodeInto_decodeFrame b s]

theorem ringRead_eq {s : State} (hlog : s.cfg.ringLog2 ≤ 31) (i : Count) :
    s.ringRead i = s.ring.getD (i &&& ringMask s.cfg).toNat 0 := by
  rw [State.ringRead, ringSlot_eq_and_ringMask hlog]

/-- In a drain, DR_ACTIVE after the byte says whether it was not the last. -/
theorem drainTake_of_active {s : State} (h : s.drActive = true) :
    drainTake s = { s with
      get := s.get + 1, drN := s.drN - 1, drActive := decide (s.drN ≠ 1) } := by
  have hlast : s.drN - 1 = 0 ↔ s.drN = 1 := sub_eq_zero
  have hact : (if s.drN - 1 = 0 then false else s.drActive) = decide (s.drN ≠ 1) := by
    simpa [h] using hlast
  rw [drainTake, hact]

/-- Settles O16: SOFTN is the ring's part and then DECODE, which is the decoded instruction. -/
theorem softnRunsTheByteItReads : Obligations.SoftnRunsTheByteItReads := by
  rintro s ⟨-, hlog, -⟩ hf hact
  have hrun : exec .softn s = .next (decodeInto (s.ringRead s.get) (drainTake s)) :=
    execSoftn_next.2 ⟨hf, hact, rfl⟩
  refine ⟨?_, _, hrun, (decodeInto_fault _ _).trans hf⟩
  calc exec .softn s
      = exec (decodeByte s.cfg s.decState (s.ringRead s.get)) (drainTake s) :=
        hrun.trans (exec_decodeByte (s := drainTake s) hf _).symm
    _ = _ := by rw [ringRead_eq hlog, drainTake_of_active hact]

end Sys2Proof.Machine
end

section
/-! The package decoder (42_decoder.md): headers, payload bytes, whole packages, and who can dispatch one. -/

namespace Sys2Proof.Machine

/-! ### Headers read in IDLE (R122, R125) -/

/-- Settles O19: each header class runs DEC_HEADER with its kind. -/
theorem headersStartAPackage : Obligations.HeadersStartAPackage := by
  intro s h len hf hidle
  have started := fun k => exec_knownHeader hf hidle h k len
  exact ⟨started .mem, started .ams, started .rms, started .clk, started .joy0, started .joy1⟩

/-- Settles O20: HDR_UNKNOWN in IDLE runs DEC_UNKNOWN, which only emits. -/
theorem unknownHeaderIsReported : Obligations.UnknownHeaderIsReported :=
  fun _ _ hf hidle => inIdle_next.2 ⟨hf, hidle, rfl⟩

/-! ### The package buffer -/

/-- PKG_IDX is 4 bits wide and does not wrap at an index of the buffer. -/
theorem pkgIdx_succ_toNat {i : BitVec 4} (h : i.toNat < 8) : (i + 1).toNat = i.toNat + 1 := by
  rw [BitVec.toNat_add]
  exact Nat.mod_eq_of_lt (show i.toNat + 1 < 16 by omega)

theorem take_setIfInBounds_succ {v : Vector Byte 8} {n : Nat} (b : Byte) (h : n < 8) :
    (v.setIfInBounds n b).toList.take (n + 1) = v.toList.take n ++ [b] := by
  have hn : n < v.toList.length := by simpa using h
  rw [Vector.toList_setIfInBounds, List.take_add_one, List.getElem?_set_self hn,
    List.take_set_of_le le_rfl, Option.toList_some]

/-! ### The dispatch of a package (R150, R151) -/

theorem isPointerKind_iff {k : Kind} : isPointerKind k = true ↔ ¬(k = .mem ∨ k = .clk) := by
  cases k <;> decide

/-- What the dispatch of a package emits: `dispatchPkg_eq`. -/
def dispatched (k : Kind) (len : BitVec 4) (bytes : List Byte) : List Txn :=
  if isPointerKind k then [.ptr k len bytes] else []

theorem dispatched_of_pointer {k : Kind} (len : BitVec 4) (bytes : List Byte)
    (h : ¬(k = .mem ∨ k = .clk)) : dispatched k len bytes = [.ptr k len bytes] :=
  if_pos (isPointerKind_iff.2 h)

theorem dispatched_of_discarded {k : Kind} (len : BitVec 4) (bytes : List Byte)
    (h : k = .mem ∨ k = .clk) : dispatched k len bytes = [] :=
  if_neg fun hk => isPointerKind_iff.1 hk h

theorem dispatchPkg_eq (s : State) :
    dispatchPkg s =
      { s with history := s.history ++ dispatched s.pkgKind s.pkgLen (s.pkgBytes s.pkgLen) } := by
  unfold dispatchPkg dispatched
  split
  · rfl
  · rw [List.append_nil]

/-! ### A payload byte (R123, R124) -/

/-- The byte that does not reach PKG_LEN is stored. -/
theorem decPayload_of_ne {s : State} (b : Byte) (h : s.pkgIdx + 1 ≠ s.pkgLen) :
    decPayload b s = { s.pkgWrite s.pkgIdx b with pkgIdx := s.pkgIdx + 1 } :=
  if_neg h

/-- The byte that reaches PKG_LEN dispatches the package that it completes. -/
theorem decPayload_of_eq {s : State} (b : Byte) (h : s.pkgIdx + 1 = s.pkgLen) :
    decPayload b s = { s.pkgWrite s.pkgIdx b with
      history := s.history ++
        dispatched s.pkgKind s.pkgLen ((s.pkgWrite s.pkgIdx b).pkgBytes s.pkgLen)
      decState := .idle, pkgIdx := 0 } :=
  calc decPayload b s
      = decComplete { s.pkgWrite s.pkgIdx b with pkgIdx := s.pkgIdx + 1 } := if_pos h
    _ = _ := by rw [decComplete, dispatchPkg_eq]; rfl

section
variable {s : State} (b : Byte) (hlen : s.pkgLen.toNat ≤ 8)
include hlen

theorem decPayload_short (h : s.pkgIdx.toNat + 1 < s.pkgLen.toNat) :
    decPayload b s =
      { s with pkg := s.pkg.setIfInBounds s.pkgIdx.toNat b, pkgIdx := s.pkgIdx + 1 } := by
  have hi : s.pkgIdx.toNat < 8 := by omega
  have hne : s.pkgIdx + 1 ≠ s.pkgLen := fun heq => by
    rw [← heq, pkgIdx_succ_toNat hi] at h
    exact h.false
  rw [decPayload_of_ne b hne, pkgWrite_eq b hi]

theorem decPayload_last (h : s.pkgIdx.toNat + 1 = s.pkgLen.toNat) :
    decPayload b s = { s with
      pkg := s.pkg.setIfInBounds s.pkgIdx.toNat b
      history := s.history ++ dispatched s.pkgKind s.pkgLen
        ((s.pkg.setIfInBounds s.pkgIdx.toNat b).toList.take s.pkgLen.toNat)
      decState := .idle, pkgIdx := 0 } := by
  have hi : s.pkgIdx.toNat < 8 := by omega
  have heq : s.pkgIdx + 1 = s.pkgLen := BitVec.eq_of_toNat_eq ((pkgIdx_succ_toNat hi).trans h)
  rw [decPayload_of_eq b heq, pkgBytes_eq_take _ _ hlen, pkgWrite_eq b hi]

end

theorem exec_payload {s : State} (hf : s.fault = none) (hst : s.decState = .assembling) (b : Byte) :
    exec (.payload b) s = .next (decPayload b s) :=
  execPayload_next.2 ⟨hf, hst, rfl⟩

/-- While ASSEMBLING, PKG_LEN is a length of HDR_TABLE, so the package fits the buffer (R39.2). -/
theorem State.Inv.pkgLen_le {s : State} (h : s.Inv) (hst : s.decState = .assembling) :
    s.pkgLen.toNat ≤ 8 := by
  obtain ⟨⟨hwf, -⟩, -, ⟨-, hasm⟩, -⟩ := h
  obtain ⟨-, -, hent⟩ := hasm hst
  exact (hdrLookup_len hwf hent).2

/-- Settles O21: the package fits the buffer, so the index that counts it does not wrap. -/
theorem payloadIsStoredAndCompletes : Obligations.PayloadIsStoredAndCompletes := by
  intro s b hinv hf hst
  have hlen := hinv.pkgLen_le hst
  rw [exec_payload hf hst]
  refine ⟨fun h => ?short, fun h hmem hclk => ?pointer, fun h hkind => ?discarded⟩
  case short => rw [decPayload_short b hlen h]
  case pointer => rw [decPayload_last b hlen h, dispatched_of_pointer _ _ (not_or.2 ⟨hmem, hclk⟩)]
  case discarded => rw [decPayload_last b hlen h, dispatched_of_discarded _ _ hkind, List.append_nil]

/-! ### A whole package (R128) -/

theorem execAll_cons {i : Instr} {is : List Instr} {s t : State} (h : exec i s = .next t) :
    execAll (i :: is) s = execAll is t := by
  rw [execAll, h]

/-- The bytes that are missing, one after another, complete the package: those stored before, then
these. Induction on the missing bytes, over every state that assembles. -/
theorem execAll_payload_completes (xs : List Byte) (s : State) (hf : s.fault = none)
    (hst : s.decState = .assembling) (hlen : s.pkgLen.toNat ≤ 8) (hxs : xs ≠ [])
    (hcount : s.pkgIdx.toNat + xs.length = s.pkgLen.toNat) :
    ∃ t, execAll (xs.map .payload) s = .next t ∧ t.decState = .idle ∧ t.pkgIdx = 0 ∧
      t.pkg.toList.take s.pkgLen.toNat = s.pkg.toList.take s.pkgIdx.toNat ++ xs ∧
      t.history = s.history ++
        dispatched s.pkgKind s.pkgLen (s.pkg.toList.take s.pkgIdx.toNat ++ xs) := by
  induction xs generalizing s with
  | nil => exact absurd rfl hxs
  | cons x xs ih =>
    rw [List.length_cons] at hcount
    have hi : s.pkgIdx.toNat < 8 := by omega
    have hstored := take_setIfInBounds_succ (v := s.pkg) x hi
    rw [List.map_cons, execAll_cons (exec_payload hf hst x)]
    cases xs with
    | nil =>
      have hlast : s.pkgIdx.toNat + 1 = s.pkgLen.toNat := hcount
      rw [hlast] at hstored
      rw [decPayload_last x hlen hlast, hstored]
      exact ⟨_, rfl, rfl, rfl, hstored, rfl⟩
    | cons y ys =>
      have hshort : s.pkgIdx.toNat + 1 < s.pkgLen.toNat := by
        rw [List.length_cons] at hcount
        omega
      have hrest : (s.pkgIdx + 1).toNat + (y :: ys).length = s.pkgLen.toNat := by
        rw [pkgIdx_succ_toNat hi]
        omega
      rw [decPayload_short x hlen hshort]
      obtain ⟨t, hrun, hidle, hidx, hpkg, hhist⟩ :=
        ih { s with pkg := s.pkg.setIfInBounds s.pkgIdx.toNat x, pkgIdx := s.pkgIdx + 1 } hf hst hlen
          (List.cons_ne_nil y ys) hrest
      dsimp only at hpkg hhist
      rw [pkgIdx_succ_toNat hi, hstored, List.append_assoc] at hpkg hhist
      exact ⟨t, hrun, hidle, hidx, hpkg, hhist⟩

/-- After the header the buffer begins with it. -/
theorem decHeader_take_one (h : Byte) (k : Kind) (len : BitVec 4) (s : State) :
    (decHeader h k len s).pkg.toList.take 1 = [h] := by
  have hpkg : (decHeader h k len s).pkg = s.pkg.setIfInBounds 0 h := by
    rw [decHeader, pkgWrite_eq h (by decide)]; rfl
  rw [hpkg]
  exact take_setIfInBounds_succ h (by decide)

/-- Settles O22: the header, then the induction over the bytes that follow it. -/
theorem packageIsDispatchedWhole : Obligations.PackageIsDispatchedWhole := by
  intro s h e xs hwf hf hidle hhdr hent hcount
  obtain ⟨hmin, hmax⟩ := hdrLookup_len hwf hent
  have hxs : xs ≠ [] := List.ne_nil_of_length_pos (by omega)
  have hlast : 1 + xs.length = e.len.toNat := by omega
  obtain ⟨t, hrun, ht, hidx, hpkg, hhist⟩ :=
    execAll_payload_completes xs (decHeader h e.kind e.len s) hf rfl hmax hxs hlast
  have hfirst : (decHeader h e.kind e.len s).pkg.toList.take 1 ++ xs = h :: xs := by
    rw [decHeader_take_one, List.singleton_append]
  have hhist' : t.history = s.history ++ dispatched e.kind e.len (h :: xs) := by
    rw [← hfirst]; exact hhist
  refine ⟨t, ?_, ht, hidx, hpkg.trans hfirst, ?_⟩
  · rw [decodeByte_knownHeader (isHeader_iff.1 hhdr) hent,
      execAll_cons (exec_knownHeader hf hidle h e.kind e.len)]
    exact hrun
  · rw [hhist']
    split_ifs with hkind
    · rw [dispatched_of_discarded _ _ hkind]
    · rw [dispatched_of_pointer _ _ hkind]

/-! ### What the other operations emit (R44) -/

/-- A step from s to t that only appends transactions to the history, all of which meet `p` (R10). -/
def State.Emits (s t : State) (p : Txn → Bool) : Prop :=
  ∃ xs, t.history = s.history ++ xs ∧ ∀ x ∈ xs, p x = true

theorem emitted_eq {s t : State} {xs : List Txn} (h : t.history = s.history ++ xs) :
    emitted s t = xs := by
  rw [emitted, h, List.drop_left]

theorem State.Emits.of_mem {s t : State} {p : Txn → Bool} {x : Txn} (h : s.Emits t p)
    (hx : x ∈ emitted s t) : p x = true := by
  obtain ⟨xs, hhist, hall⟩ := h
  exact hall x (emitted_eq hhist ▸ hx)

theorem State.Emits.nothing {s t : State} {p : Txn → Bool} (h : t.history = s.history) :
    s.Emits t p :=
  ⟨[], by rw [h, List.append_nil], by simp⟩

theorem State.Emits.one {s t : State} {p : Txn → Bool} (x : Txn) (h : t.history = s.history ++ [x])
    (hx : p x = true) : s.Emits t p :=
  ⟨[x], h, by simpa using hx⟩

/-- The transactions of the caller threads and the transmitter: bytes for the link and results. -/
def Txn.isCaller : Txn → Bool
  | .linkTx _ => true
  | .ret _ _ _ => true
  | _ => false

/-- The transactions that routing a key can make: a record, a code, or the report that it is dropped. -/
def Txn.isKey : Txn → Bool
  | .ev _ _ _ => true
  | .gen _ _ _ => true
  | .term _ => true
  | .diag .evqFull _ => true
  | _ => false

theorem routeKey_emits (b : Byte) (s : State) : s.Emits (routeKey b s) Txn.isKey := by
  rcases routeKey_cases b s with ⟨-, -, h⟩ | ⟨-, -, h⟩ | ⟨-, -, -, h⟩ | ⟨-, -, -, h⟩ |
    ⟨-, -, -, -, h⟩ | ⟨-, -, -, -, h⟩ <;> rw [h]
  · exact .one _ rfl rfl
  · exact .one _ rfl rfl
  · exact .one _ rfl rfl
  · exact .nothing rfl
  · split <;> exact .nothing rfl
  · exact .one _ rfl rfl

/-- A diagnostic for an unknown header. -/
def Txn.isUnknownHeader : Txn → Bool
  | .diag .unknownHeader _ => true
  | _ => false

theorem decUnknown_emits (b : Byte) (s : State) :
    s.Emits (decUnknown b s) Txn.isUnknownHeader :=
  .one _ rfl rfl

theorem decHeader_emits_nothing (b : Byte) (k : Kind) (len : BitVec 4) (s : State) :
    s.Emits (decHeader b k len s) fun _ => false :=
  .nothing rfl

theorem drainBegin_emits_nothing (s : State) : s.Emits (drainBegin s) fun _ => false := by
  unfold drainBegin
  dsimp only
  split <;> exact .nothing rfl

theorem txFirst_emits (s : State) : s.Emits (txFirst s) Txn.isCaller := by
  unfold txFirst
  split
  · exact .one (.linkTx _) rfl rfl
  · exact .nothing rfl

theorem pollWrite_emits (n : Nat) (th : Thread) (s : State) :
    s.Emits (pollWrite n th s) Txn.isCaller := by
  unfold pollWrite
  dsimp only
  split
  · exact ⟨[.linkTx _, .ret n .sendPoll .ok], List.append_assoc _ _ _, by simp [Txn.isCaller]⟩
  · exact .one (.linkTx _) rfl rfl

theorem pollFail_emits (n : Nat) (th : Thread) (s : State) :
    s.Emits (pollFail n th s) Txn.isCaller := by
  unfold pollFail
  split
  · exact .one (.ret n .sendPoll .fail) rfl rfl
  · exact .nothing rfl

theorem crWrite_history {n r v : Nat} {s t : State} (h : crWrite n r v s = .next t) :
    t.history = s.history := by
  obtain ⟨th, -, -, -, ⟨c, rfl⟩ | ⟨-, -, rfl⟩ | ⟨-, -, rfl⟩ | ⟨-, -, hirq⟩⟩ := crWrite_next h
  · rfl
  · rfl
  · rfl
  · obtain ⟨c, rfl⟩ | ⟨-, -, rfl⟩ := irqEnWrite_next hirq <;> rfl

/-- No instruction but SOFT's emits a transaction of the dispatcher or a diagnostic. -/
theorem exec_emits_of_not_softWord {i : Instr} {s t : State} (h : exec i s = .next t)
    (hi : isSoftWord i = false) : s.Emits t Txn.isCaller := by
  cases i with
  | rx b | rxe b | evqf v =>
    obtain ⟨-, ht⟩ := whenRunning_next.1 h
    obtain rfl := next_iff.1 ht
    exact .nothing rfl
  | irqrx => rw [execIrqrx_frame h]; exact .nothing rfl
  | lrdy =>
    obtain ⟨-, -, rfl⟩ := execLrdy_next.1 h
    exact .nothing rfl
  | reen => rw [reenable_eq h]; exact .nothing rfl
  | reset =>
    obtain ⟨th, -, -, -, ⟨c, rfl⟩ | ⟨-, rfl⟩⟩ := resetBy_next h <;> exact .nothing rfl
  | crw r v => exact .nothing (crWrite_history h)
  | crr r =>
    obtain ⟨th, -, -, -, ⟨c, rfl⟩ | ⟨v, -, rfl⟩⟩ := crRead_next h
    · exact .nothing rfl
    · exact .one (.ret _ _ _) rfl rfl
  | send n len =>
    obtain ⟨th, -, -, -, ⟨c, rfl⟩ | ⟨-, -, -, rfl⟩⟩ := sendCall_next h <;> exact .nothing rfl
  | psend n len =>
    obtain ⟨th, -, -, -, ⟨c, rfl⟩ | ⟨-, -, -, -, -, rfl⟩⟩ := sendPolling_next h <;> exact .nothing rfl
  | acq n =>
    obtain ⟨th, -, -, -, -, rfl⟩ := acquire_next.1 h
    exact txFirst_emits (acquired n.toNat th s)
  | sret n =>
    obtain ⟨th, -, -, -, -, rfl⟩ := sendReturn_next.1 h
    exact .one (.ret _ _ _) rfl rfl
  | txi =>
    obtain ⟨-, -, -, -, rfl⟩ := execTxi_next.1 h
    exact .one (.linkTx _) rfl rfl
  | pstep n =>
    obtain ⟨th, -, -, -, rfl⟩ := pollStep_next.1 h
    split
    · exact pollWrite_emits n.toNat th s
    · exact pollFail_emits n.toNat th s
  | _ => cases hi

/-! ### Who dispatches a package (R129) -/

/-- The step from s to t dispatches the package (k, len, bytes): DEC was ASSEMBLING, PKG_IDX has reached
PKG_LEN, all PKG_LEN bytes are in the one transaction of the step, and DEC is back in IDLE. -/
abbrev State.Dispatches (s t : State) (k : Kind) (len : BitVec 4) (bytes : List Byte) : Prop :=
  s.decState = .assembling ∧ s.pkgIdx + 1 = s.pkgLen ∧ len = s.pkgLen ∧ k = s.pkgKind ∧
    bytes.length = len.toNat ∧ emitted s t = [.ptr k len bytes] ∧ t.decState = .idle ∧ t.pkgIdx = 0

theorem length_pkgBytes (len : BitVec 4) (s : State) : (s.pkgBytes len).length = len.toNat := by
  rw [State.pkgBytes, List.length_map, List.length_range]

theorem mem_dispatched {x : Txn} {k : Kind} {len : BitVec 4} {bytes : List Byte}
    (h : x ∈ dispatched k len bytes) :
    x = .ptr k len bytes ∧ dispatched k len bytes = [.ptr k len bytes] := by
  unfold dispatched at h ⊢
  split_ifs at h ⊢
  · exact ⟨List.mem_singleton.1 h, rfl⟩
  · cases h

section
variable {b : Byte} {s t : State} {k : Kind} {len : BitVec 4} {bytes : List Byte}

theorem decPayload_dispatches (hst : s.decState = .assembling)
    (h : .ptr k len bytes ∈ emitted s (decPayload b s)) :
    s.Dispatches (decPayload b s) k len bytes := by
  by_cases hlast : s.pkgIdx + 1 = s.pkgLen
  · have heq := decPayload_of_eq b hlast
    have hnew : emitted s (decPayload b s) =
        dispatched s.pkgKind s.pkgLen ((s.pkgWrite s.pkgIdx b).pkgBytes s.pkgLen) := by
      rw [heq]; exact emitted_eq rfl
    rw [hnew] at h
    obtain ⟨hptr, hone⟩ := mem_dispatched h
    obtain ⟨rfl, rfl, rfl⟩ := Txn.ptr.inj hptr
    refine ⟨hst, hlast, rfl, rfl, length_pkgBytes _ _, hnew.trans hone, ?_, ?_⟩ <;> rw [heq]
  · rw [decPayload_of_ne b hlast] at h
    cases (State.Emits.nothing (p := fun _ => false) rfl).of_mem h

theorem decodeInto_dispatches (h : .ptr k len bytes ∈ emitted s (decodeInto b s)) :
    s.Dispatches (decodeInto b s) k len bytes := by
  rcases decodeInto_cases b s with ⟨hst, hd⟩ | ⟨-, -, -, hd⟩ | ⟨e, -, -, -, hd⟩ | ⟨-, -, hd⟩ <;>
    rw [hd] at h ⊢
  · exact decPayload_dispatches hst h
  · cases (decUnknown_emits b s).of_mem h
  · cases (decHeader_emits_nothing b e.kind e.len s).of_mem h
  · cases (routeKey_emits b s).of_mem h

end

/-- Settles O23: only a payload byte, run by itself or in SOFTN, dispatches, and only as the last one. -/
theorem noShortPackageIsDispatched : Obligations.NoShortPackageIsDispatched := by
  intro i s t k len bytes h hptr
  cases hi : isSoftWord i with
  | false => cases (exec_emits_of_not_softWord h hi).of_mem hptr
  | true =>
    cases i with
    | payload b =>
      obtain ⟨-, hst, rfl⟩ := execPayload_next.1 h
      exact decPayload_dispatches hst hptr
    | softn =>
      obtain ⟨-, -, rfl⟩ := execSoftn_next.1 h
      exact decodeInto_dispatches (s := drainTake s) hptr
    | softb =>
      obtain ⟨-, -, -, rfl⟩ := execSoftb_next.1 h
      cases (drainBegin_emits_nothing s).of_mem hptr
    | hdrUnknown b =>
      obtain ⟨-, -, rfl⟩ := inIdle_next.1 h
      cases (decUnknown_emits b s).of_mem hptr
    | keyPress sc | keyRelease sc =>
      obtain ⟨-, -, rfl⟩ := inIdle_next.1 h
      cases (routeKey_emits _ s).of_mem hptr
    | hdrMem b n | hdrAms b n | hdrRms b n | hdrClk b n | hdrJoy0 b n | hdrJoy1 b n =>
      obtain ⟨-, -, rfl⟩ := inIdle_next.1 h
      cases (decHeader_emits_nothing b _ n s).of_mem hptr
    | _ => cases hi

end Sys2Proof.Machine
end

section
/-! The dispatcher (43_dispatch.md): ROUTE_KEY on each path, and what a key instruction does. -/

namespace Sys2Proof.Machine

/-! ### The codes of a press and of a release (R81, R84) -/

theorem scancode_press (sc : ScanCode) : scancode (0#1 ++ sc) = sc := (press_code sc).2.2

theorem released_press (sc : ScanCode) : released (0#1 ++ sc) = false := (press_code sc).2.1

theorem scancode_release (sc : ScanCode) : scancode (1#1 ++ sc) = sc := (release_code sc).2

theorem released_release (sc : ScanCode) : released (1#1 ++ sc) = true := (release_code sc).1

theorem transitionOf_press (sc : ScanCode) : transitionOf (0#1 ++ sc) = .down := by
  rw [transitionOf, released_press]; rfl

theorem transitionOf_release (sc : ScanCode) : transitionOf (1#1 ++ sc) = .up := by
  rw [transitionOf, released_release]; rfl

theorem press_eq_ofNat (sc : ScanCode) : 0#1 ++ sc = BitVec.ofNat 8 sc.toNat := by
  revert sc; decide

theorem release_eq_ofNat (sc : ScanCode) : 1#1 ++ sc = BitVec.ofNat 8 (0x80 + sc.toNat) := by
  revert sc; decide

/-! ### The key instructions run ROUTE_KEY on their code (R121) -/

theorem exec_keyPress {s : State} (hf : s.fault = none) (hidle : s.decState = .idle) (sc : ScanCode) :
    exec (.keyPress sc) s = .next (routeKey (0#1 ++ sc) s) :=
  inIdle_next.2 ⟨hf, hidle, rfl⟩

theorem exec_keyRelease {s : State} (hf : s.fault = none) (hidle : s.decState = .idle)
    (sc : ScanCode) : exec (.keyRelease sc) s = .next (routeKey (1#1 ++ sc) s) :=
  inIdle_next.2 ⟨hf, hidle, rfl⟩

theorem exec_key_next {i : Instr} {sc : ScanCode} {s t : State}
    (hi : i = .keyPress sc ∨ i = .keyRelease sc) (h : exec i s = .next t) :
    ∃ b, scancode b = sc ∧ t = routeKey b s := by
  rcases hi with rfl | rfl
  · obtain ⟨-, -, ht⟩ := inIdle_next.1 h
    exact ⟨_, scancode_press sc, ht⟩
  · obtain ⟨-, -, ht⟩ := inIdle_next.1 h
    exact ⟨_, scancode_release sc, ht⟩

/-! ### The modifier codes (R30, R146) -/

theorem mem_modCodes {p : Params} {sc : ScanCode} :
    sc ∈ p.modCodes ↔ isHeld p sc = true ∨ sc = p.capsSc := by
  simp [Params.modCodes, isHeld, or_assoc]

/-- The scan code of the held modifier that has bit k of MODS. -/
abbrev HeldAt (p : Params) (k : Nat) (sc : ScanCode) : Prop :=
  (k = 0 ∧ sc = p.lshiftSc) ∨ (k = 1 ∧ sc = p.rshiftSc) ∨
    (k = 2 ∧ sc = p.ctrlSc) ∨ (k = 3 ∧ sc = p.altSc)

/-- The tracker tells the held modifiers apart, since the modifier codes are pairwise distinct. -/
theorem heldBit_of_heldAt {p : Params} {k : Nat} {sc : ScanCode} (hnd : p.modCodes.Nodup)
    (h : HeldAt p k sc) : isHeld p sc = true ∧ heldBit p sc = k := by
  simp only [Params.modCodes, List.nodup_cons, List.mem_cons, not_or] at hnd
  obtain ⟨⟨hlr, hlc, hla, -⟩, ⟨hrc, hra, -⟩, ⟨hca, -⟩, -⟩ := hnd
  rcases h with ⟨rfl, rfl⟩ | ⟨rfl, rfl⟩ | ⟨rfl, rfl⟩ | ⟨rfl, rfl⟩
  · simp [isHeld, heldBit]
  · simp [isHeld, heldBit, Ne.symm hlr]
  · simp [isHeld, heldBit, Ne.symm hlc, Ne.symm hrc]
  · simp [isHeld, heldBit, Ne.symm hla, Ne.symm hra, Ne.symm hca]

theorem isHeld_capsSc {p : Params} (hnd : p.modCodes.Nodup) : isHeld p p.capsSc = false := by
  simp only [Params.modCodes, List.nodup_cons, List.mem_cons, not_or] at hnd
  obtain ⟨⟨-, -, -, hl, -⟩, ⟨-, -, hr, -⟩, ⟨-, hc, -⟩, ⟨ha, -⟩, -⟩ := hnd
  simp [isHeld, Ne.symm hl, Ne.symm hr, Ne.symm hc, Ne.symm ha]

theorem setFlag_caps_eq_xor (m : BitVec 5) : setFlag m 4 (!m.getLsbD 4) = m ^^^ 0b10000#5 := by
  revert m; decide

/-! ### ROUTE_KEY on each path (R140 to R149) -/

section
variable {s : State} (b : Byte)

theorem routeKey_event (hm : s.mode = modeEvent) (hq : s.evqFull = false) :
    routeKey b s = s.emitEvent (scancode b) (transitionOf b).value := by
  rw [routeKey, if_pos hm, routeEvent, hq]; rfl

theorem routeKey_eventFull (hm : s.mode = modeEvent) (hq : s.evqFull = true) :
    routeKey b s = s.emit (.diag .evqFull (scanData b)) := by
  rw [routeKey, if_pos hm, routeEvent, if_pos hq]; rfl

theorem routeKey_generic (hm : s.mode = modePass) (hg : s.genPresent = true) :
    routeKey b s = s.emit (.gen s.cfg.genHandle (transitionOf b) (scancode b)) := by
  rw [routeKey, hm, hg]; rfl

/-- The order of ROUTE_KEY's tests leaves ROUTE_TERM the states of the terminal path. -/
theorem routeKey_terminal (h : s.TerminalPath) : routeKey b s = routeTerm b s := by
  obtain ⟨hm, hgen⟩ := h
  have hevent : s.mode ≠ modeEvent := hm
  have hsink : ¬((s.genPresent && s.mode != modePoll) = true) := by
    rcases hgen with hg | hp
    · simp [hg]
    · simp [hp, modePoll]
  rw [routeKey, if_neg hevent, if_neg hsink]

theorem routeKey_held {k : Nat} (hnd : s.cfg.modCodes.Nodup) (hterm : s.TerminalPath)
    (h : HeldAt s.cfg k (scancode b)) :
    routeKey b s = { s with mods := setFlag s.mods k (!released b) } := by
  obtain ⟨hheld, hbit⟩ := heldBit_of_heldAt hnd h
  rw [routeKey_terminal b hterm, routeTerm, modClassify, if_pos hheld, modSetClr, hbit]

theorem routeKey_caps (hnd : s.cfg.modCodes.Nodup) (hterm : s.TerminalPath)
    (h : scancode b = s.cfg.capsSc) : routeKey b s = modCaps (released b) s := by
  have hheld : ¬(isHeld s.cfg (scancode b) = true) := by rw [h, isHeld_capsSc hnd]; decide
  rw [routeKey_terminal b hterm, routeTerm, modClassify, if_neg hheld, if_pos h]

theorem routeKey_other (hterm : s.TerminalPath) (h : scancode b ∉ s.cfg.modCodes) :
    routeKey b s = s.emit (.term b) := by
  rw [mem_modCodes, not_or] at h
  obtain ⟨hheld, hcaps⟩ := h
  rw [routeKey_terminal b hterm, routeTerm, modClassify, if_neg hheld, if_neg hcaps]

end

/-! ### The event queue and the generic sink (R141 to R143) -/

/-- Settles O24: both records carry the TIME of the state the key finds. -/
theorem eventModeRecordsTheKey : Obligations.EventModeRecordsTheKey := by
  intro s sc hf hidle hm hq
  refine ⟨s.timeNow, s.emitEvent sc 1, s.emitEvent sc 0, ?press, rfl, ?release, rfl⟩
  case press =>
    rw [exec_keyPress hf hidle, routeKey_event _ hm hq, scancode_press, transitionOf_press]; rfl
  case release =>
    rw [exec_keyRelease hf hidle, routeKey_event _ hm hq, scancode_release, transitionOf_release]; rfl

/-- Settles O25: the diagnostic carries the scan code, the same for a press and a release. -/
theorem fullEventQueueDropsTheKey : Obligations.FullEventQueueDropsTheKey := by
  intro s sc hf hidle hm hq
  constructor
  · rw [exec_keyPress hf hidle, routeKey_eventFull _ hm hq, scanData, scancode_press]; rfl
  · rw [exec_keyRelease hf hidle, routeKey_eventFull _ hm hq, scanData, scancode_release]; rfl

/-- Settles O26: ROUTE_GEN only emits, so the modifier tracker does not run. -/
theorem genericSinkTakesTheKey : Obligations.GenericSinkTakesTheKey := by
  intro s sc hf hidle hm hg
  constructor
  · rw [exec_keyPress hf hidle, routeKey_generic _ hm hg, scancode_press, transitionOf_press]; rfl
  · rw [exec_keyRelease hf hidle, routeKey_generic _ hm hg, scancode_release, transitionOf_release]; rfl

/-! ### The terminal path (R144, R147 to R149) -/

/-- Settles O27: the tracker finds the code's bit, and writing one flag leaves the other four. -/
theorem heldModifierSetsAndClearsItsBit : Obligations.HeldModifierSetsAndClearsItsBit := by
  rintro s sc k ⟨-, -, -, -, hnd, -⟩ hf hidle hterm hk
  have hlt : k < 5 := by omega
  refine ⟨setFlag s.mods k true, setFlag s.mods k false, ?press, ?release,
    setFlag_getLsbD s.mods k true hlt, setFlag_getLsbD s.mods k false hlt⟩
  case press =>
    rw [exec_keyPress hf hidle, routeKey_held _ hnd hterm ((scancode_press sc).symm ▸ hk),
      released_press]
    rfl
  case release =>
    rw [exec_keyRelease hf hidle, routeKey_held _ hnd hterm ((scancode_release sc).symm ▸ hk),
      released_release]
    rfl

/-- Settles O28: the caps-lock code is no held modifier's, so MOD_CAPS runs. -/
theorem capsLockTogglesOnPress : Obligations.CapsLockTogglesOnPress := by
  rintro s ⟨-, -, -, -, hnd, -⟩ hf hidle hterm
  constructor
  · rw [exec_keyPress hf hidle, routeKey_caps _ hnd hterm (scancode_press _), released_press, modCaps,
      setFlag_caps_eq_xor]
    rfl
  · rw [exec_keyRelease hf hidle, routeKey_caps _ hnd hterm (scancode_release _), released_release]
    rfl

/-- Settles O29: the tracker answers UNCHANGED, and TERM carries the whole code. -/
theorem otherKeysReachTheTerminal : Obligations.OtherKeysReachTheTerminal := by
  intro s sc hf hidle hterm hsc
  constructor
  · rw [exec_keyPress hf hidle, routeKey_other _ hterm ((scancode_press sc).symm ▸ hsc),
      press_eq_ofNat]
    rfl
  · rw [exec_keyRelease hf hidle, routeKey_other _ hterm ((scancode_release sc).symm ▸ hsc),
      release_eq_ofNat]
    rfl

/-! ### One path for each key (R145) -/

/-- Settles O30: the ends of ROUTE_KEY, each with its one transaction or with the tracker's verdict. -/
theorem everyKeyTakesExactlyOnePath : Obligations.EveryKeyTakesExactlyOnePath := by
  intro i sc s t hi h
  obtain ⟨b, rfl, rfl⟩ := exec_key_next hi h
  refine ⟨routeKey_frame b s, ?_⟩
  rcases routeKey_cases b s with ⟨hm, hq, hr⟩ | ⟨hm, hq, hr⟩ | ⟨hm, hg, hp, hr⟩ |
    ⟨hm, hterm, hheld, hr⟩ | ⟨hm, hterm, -, hcaps, hr⟩ | ⟨hm, hterm, -, -, hr⟩ <;> rw [hr]
  · exact .inr ⟨_, rfl, rfl, .inr (.inl ⟨hm, hq, _, rfl⟩)⟩
  · exact .inr ⟨_, rfl, rfl, .inl ⟨hm, hq, _, _, rfl⟩⟩
  · exact .inr ⟨_, rfl, rfl, .inr (.inr (.inl ⟨hm, hg, hp, _, rfl⟩))⟩
  · exact .inl ⟨rfl, ⟨hm, hterm⟩, mem_modCodes.2 (.inl hheld)⟩
  · refine .inl ⟨?_, ⟨hm, hterm⟩, mem_modCodes.2 (.inr hcaps)⟩
    split <;> rfl
  · exact .inr ⟨_, rfl, rfl, .inr (.inr (.inr ⟨⟨hm, hterm⟩, _, rfl⟩))⟩

end Sys2Proof.Machine
end

section
/-! The output channel (44_output.md): `send` with the transmit steps it waits for, and `send_polling`. -/

namespace Sys2Proof.Machine

/-! ### Addresses and calls -/

theorem memRead_of_lt {s : State} {a : Nat} (h : a < addrSpace s.cfg) :
    s.memRead a = Memory.read s.mem a := by
  rw [State.memRead, addrCut_of_lt h]

theorem addrAdd_of_lt {p : Params} {a n : Nat} (h : a + n < addrSpace p) : addrAdd p a n = a + n :=
  Nat.mod_eq_of_lt h

theorem State.Inv.callInv {s : State} (h : s.Inv) {n : Nat} {th : Thread}
    (hth : s.threads[n]? = some th) : s.CallInv th := by
  obtain ⟨-, -, -, -, -, ⟨hcalls, -⟩, -⟩ := h
  exact hcalls th (List.mem_of_getElem? hth)

theorem State.Inv.txCursor_lt {s : State} (h : s.Inv) : s.txCursor < addrSpace s.cfg := by
  obtain ⟨-, -, -, -, ⟨-, hcursor, -⟩, -⟩ := h
  exact hcursor

/-! ### The byte that goes to the link (R173, R176, R177) -/

/-- During a transmission, TX_BUSY after the byte says whether it was not the last. -/
theorem txByte_of_busy {s : State} (hb : s.txBusy = true) (hc : s.txCursor < addrSpace s.cfg) :
    txByte s = { s with
      history := s.history ++ [.linkTx (Memory.read s.mem s.txCursor)]
      txrdy := false
      txCursor := (s.txCursor + 1) % 2 ^ s.cfg.addrW
      txRem := s.txRem - 1
      txBusy := decide (s.txRem ≠ 1) } := by
  have hlast : s.txRem - 1 = 0 ↔ s.txRem = 1 := sub_eq_zero
  have hbusy : (if s.txRem - 1 = 0 then false else s.txBusy) = decide (s.txRem ≠ 1) := by
    simpa [hb] using hlast
  rw [txByte, hbusy, memRead_of_lt hc]
  rfl

/-- Settles O43: TX_BUSY = 1 enables TX_STEP, and TX_CURSOR is an address of caller memory. -/
theorem txiSendsTheNextByte : Obligations.TxiSendsTheNextByte := by
  intro s hinv hf hirq hrdy hb
  calc exec .txi s = .next (txByte s) := execTxi_next.2 ⟨hf, hirq, hrdy, hb, rfl⟩
    _ = _ := by rw [txByte_of_busy hb hinv.txCursor_lt]

/-! ### SEND_ACQUIRE and SEND_RETURN (R172 to R174) -/

theorem exec_acq {s : State} {t : BitVec 4} {th : Thread} (hf : s.fault = none)
    (hth : s.ThreadAt t.toNat .acq th) (hb : s.txBusy = false) :
    exec (.acq t) s = .next (txFirst (acquired t.toNat th s)) := by
  obtain ⟨hget, hst⟩ := hth
  exact acquire_next.2 ⟨th, hf, hget, hst, hb, rfl⟩

theorem txFirst_of_notReady {s : State} (h : s.txrdy = false) : txFirst s = s := by
  rw [txFirst, h]; rfl

theorem txFirst_of_ready {s : State} (h : s.txrdy = true) : txFirst s = txByte s := if_pos h

/-- Settles O41: TX_FIRST runs on the registers that SEND_ACQUIRE has loaded, with TX_BUSY = 1. -/
theorem acquireStartsTheTransmission : Obligations.AcquireStartsTheTransmission := by
  intro s t th hinv hf hth hb
  obtain ⟨hbase, -⟩ := hinv.callInv hth.1
  rw [exec_acq hf hth hb]
  refine ⟨fun hrdy => ?notReady, fun hrdy => ?ready⟩
  case notReady => rw [txFirst_of_notReady (s := acquired t.toNat th s) hrdy]; rfl
  case ready =>
    rw [txFirst_of_ready (s := acquired t.toNat th s) hrdy,
      txByte_of_busy (s := acquired t.toNat th s) rfl hbase]
    rfl

/-- Settles O42: SRET of a thread in WAIT is enabled by TX_BUSY = 0. -/
theorem sretReturnsOk : Obligations.SretReturnsOk := by
  rintro s t th hf ⟨hget, hst⟩ hb
  exact sendReturn_next.2 ⟨th, hf, hget, hst, hb, rfl⟩

/-! ### The calls and the order of their checks (R170, R180, R231) -/

section
variable {s : State} {t base : Nat} {th : Thread}

/-- `send` of an idle thread as the chain of its checks. -/
theorem sendCall_of_idle (len : Count) (hf : s.fault = none) (hth : s.ThreadAt t .idle th)
    (hbase : base < 2 ^ s.cfg.addrW) :
    perform (.send t base len) s =
      if len = 0 then raiseFault .sendZeroLen t s
      else if pastTop s.cfg base len then raiseFault .cmdRange t s
      else if s.irqEn = false then raiseFault .sendIrqOff t s
      else .next (s.setThread t { th with base := base, len := len, state := .acq }) := by
  obtain ⟨hget, hst⟩ := hth
  rw [perform, sendCall, threadStep_eq hf hget hst, addrCut_of_lt hbase]

/-- What keeps thread t from a polled send: an outstanding transmission, or another thread in a call. -/
abbrev State.OtherOutput (s : State) (t : Nat) : Prop :=
  s.txBusy = true ∨ ∃ u w, u ≠ t ∧ s.threads[u]? = some w ∧ w.state ≠ .idle

theorem otherOutput_iff :
    (s.txBusy || s.threadsWith (fun u st => u != t && st != .idle) != []) = true ↔
      s.OtherOutput t := by
  rw [Bool.or_eq_true, bne_iff_ne, threadsWith_ne_nil]
  refine or_congr_right (exists₂_congr fun u w => ?_)
  rw [Bool.and_eq_true, bne_iff_ne, bne_iff_ne, and_left_comm]

/-- `send_polling` of an idle thread as the chain of its checks. -/
theorem sendPolling_of_idle (len : Count) (hf : s.fault = none) (hth : s.ThreadAt t .idle th)
    (hbase : base < 2 ^ s.cfg.addrW) :
    perform (.sendPolling t base len) s =
      if len = 0 then raiseFault .sendZeroLen t s
      else if pastTop s.cfg base len then raiseFault .cmdRange t s
      else if s.irqEn then raiseFault .pollIrqOn t s
      else if s.txBusy || s.threadsWith (fun u st => u != t && st != .idle) != [] then
        raiseFault .pollBusy t s
      else
        .next (s.setThread t
          { th with base := base, len := len, idx := 0, spin := 0, state := .poll }) := by
  obtain ⟨hget, hst⟩ := hth
  rw [perform, sendPolling, threadStep_eq hf hget hst, addrCut_of_lt hbase]

end

theorem not_pastTop {p : Params} {base : Nat} {len : Count} (h : base + len.toNat ≤ 2 ^ p.addrW) :
    ¬ pastTop p base len = true := mt pastTop_iff.1 h.not_gt

/-- Settles O39: each case is the first check of `send` that its hypotheses let fail. -/
theorem sendCallChecksThenWaitsToAcquire : Obligations.SendCallChecksThenWaitsToAcquire := by
  intro s t base len th hf hth hbase
  rw [sendCall_of_idle len hf hth hbase]
  refine ⟨fun hz => ?zeroLen, fun hlen hpast => ?range, fun hlen hfit hirq => ?irqOff,
    fun hlen hfit hirq => ?accepted⟩
  case zeroLen => rw [if_pos hz]; rfl
  case range => rw [if_neg hlen, if_pos (pastTop_iff.2 hpast)]; rfl
  case irqOff => rw [if_neg hlen, if_neg (not_pastTop hfit), if_pos hirq]; rfl
  case accepted => rw [if_neg hlen, if_neg (not_pastTop hfit), if_neg (by simp [hirq])]; rfl

/-- Settles O44: each case is the first check of `send_polling` that its hypotheses let fail. -/
theorem sendPollingChecksThenPolls : Obligations.SendPollingChecksThenPolls := by
  intro s t base len th hf hth hbase other
  rw [sendPolling_of_idle len hf hth hbase]
  refine ⟨fun hz => ?zeroLen, fun hlen hpast => ?range, fun hlen hfit hirq => ?irqOn,
    fun hlen hfit hirq hother => ?busy, fun hlen hfit hirq hother => ?accepted⟩
  case zeroLen => rw [if_pos hz]; rfl
  case range => rw [if_neg hlen, if_pos (pastTop_iff.2 hpast)]; rfl
  case irqOn => rw [if_neg hlen, if_neg (not_pastTop hfit), if_pos hirq]; rfl
  case busy =>
    rw [if_neg hlen, if_neg (not_pastTop hfit), if_neg (by simp [hirq]),
      if_pos (otherOutput_iff.2 hother)]
    rfl
  case accepted =>
    rw [if_neg hlen, if_neg (not_pastTop hfit), if_neg (by simp [hirq]),
      if_neg (mt otherOutput_iff.1 hother)]
    rfl

/-! ### POLL_STEP (R181, R182) -/

theorem exec_pstep {s : State} {t : BitVec 4} {th : Thread} (hf : s.fault = none)
    (hth : s.ThreadAt t.toNat .poll th) :
    exec (.pstep t) s =
      .next (if s.txrdy then pollWrite t.toNat th s else pollFail t.toNat th s) := by
  obtain ⟨hget, hst⟩ := hth
  exact pollStep_next.2 ⟨th, hf, hget, hst, rfl⟩

/-- TH_I does not wrap on its way to TH_LEN. -/
theorem succ_eq_iff_of_lt {i n : Count} (h : i.toNat < n.toNat) :
    i + 1 = n ↔ i.toNat + 1 = n.toNat := by
  rw [BitVec.toNat_eq, BitVec.toNat_add, Nat.mod_eq_of_lt]
  · rfl
  · exact (Nat.succ_le_of_lt h).trans_lt n.isLt

section
variable {s : State} {th : Thread} (t : Nat)

theorem memRead_pollByte (hidx : th.idx.toNat < th.len.toNat)
    (htop : th.base + th.len.toNat ≤ addrSpace s.cfg) :
    s.memRead (addrAdd s.cfg th.base th.idx.toNat) =
      Memory.read s.mem (th.base + th.idx.toNat) := by
  have hlt : th.base + th.idx.toNat < addrSpace s.cfg := by omega
  rw [addrAdd_of_lt hlt, memRead_of_lt hlt]

theorem pollWrite_of_ne (h : th.idx + 1 ≠ th.len) :
    pollWrite t th s = (s.linkTx (s.memRead (addrAdd s.cfg th.base th.idx.toNat))).setThread t
      { th with idx := th.idx + 1, spin := 0 } := if_neg h

/-- The last byte and the return of OK are one step: two transactions. -/
theorem pollWrite_of_eq (h : th.idx + 1 = th.len) :
    pollWrite t th s = { s with
      history := s.history ++
        [.linkTx (s.memRead (addrAdd s.cfg th.base th.idx.toNat)), .ret t .sendPoll .ok]
      txrdy := false
      threads := s.threads.set t { th with idx := th.idx + 1, spin := 0, state := .idle } } := by
  rw [pollWrite, if_pos h, List.append_cons]
  rfl

theorem pollFail_of_ne (h : (th.spin + 1).toNat ≠ s.cfg.pollTimeout) :
    pollFail t th s = s.setThread t { th with spin := th.spin + 1 } := if_neg h

theorem pollFail_of_eq (h : (th.spin + 1).toNat = s.cfg.pollTimeout) :
    pollFail t th s =
      (s.emit (.ret t .sendPoll .fail)).setThread t { th with spin := th.spin + 1, state := .idle } :=
  if_pos h

end

/-- Settles O46: TXRDY chooses POLL_WRITE or the failed check; TH_I below TH_LEN within the address
space keeps the index and the address from wrapping. -/
theorem pstepSendsOrCountsAFailedCheck : Obligations.PstepSendsOrCountsAFailedCheck := by
  intro s t th hinv hf hth byte
  obtain ⟨-, hbuf, -, hpoll⟩ := hinv.callInv hth.1
  obtain ⟨-, -, hidx, -⟩ := hpoll hth.2
  obtain ⟨-, htop⟩ := hbuf (by rw [hth.2]; decide)
  have hbyte := memRead_pollByte hidx htop
  have hlast := succ_eq_iff_of_lt hidx
  rw [exec_pstep hf hth]
  refine ⟨fun hrdy hi => ?next, fun hrdy hi => ?last, fun hrdy hspin => ?counted,
    fun hrdy hspin => ?timeout⟩
  case next => rw [if_pos hrdy, pollWrite_of_ne _ (mt hlast.1 hi.ne), hbyte]; rfl
  case last => rw [if_pos hrdy, pollWrite_of_eq _ (hlast.2 hi), hbyte]
  case counted => rw [if_neg (by simp [hrdy]), pollFail_of_ne _ hspin]; rfl
  case timeout => rw [if_neg (by simp [hrdy]), pollFail_of_eq _ hspin]; rfl

end Sys2Proof.Machine
end

section
/-! The host control operations (45_control.md): control-register writes and reads, REENABLE, and the
requests that are refused by name. -/

namespace Sys2Proof.Machine

/-! ### The threads in one TH_STATE (R203) -/

/-- The threads u of "some u has TH_STATE[u] = st". -/
abbrev State.threadsIn (st : ThState) (s : State) : List Nat := s.threadsWith fun _ x => x == st

theorem mem_threadsIn {s : State} {st : ThState} {u : Nat} :
    u ∈ s.threadsIn st ↔ ∃ w, s.ThreadAt u st w := by
  simp only [State.threadsIn, mem_threadsWith, beq_iff_eq]

theorem threadsIn_ne_nil {s : State} {st : ThState} :
    s.threadsIn st ≠ [] ↔ ∃ w ∈ s.threads, w.state = st := by
  rw [threadsWith_ne_nil, exists_comm]
  simp only [beq_iff_eq, exists_and_right, List.mem_iff_getElem?]

theorem threadsIn_eq_nil {s : State} {st : ThState} (h : ∀ w ∈ s.threads, w.state ≠ st) :
    s.threadsIn st = [] := by
  by_contra hne
  obtain ⟨w, hw, hst⟩ := threadsIn_ne_nil.1 hne
  exact h w hw hst

/-- The info of a fault for "some u has TH_STATE[u] = st" is such a thread, if there is one (log 10). -/
theorem pickThread_threadsIn {s : State} {st : ThState} (h : ∃ w ∈ s.threads, w.state = st) :
    ∃ w, s.ThreadAt (s.pickThread (s.threadsIn st)) st w :=
  mem_threadsIn.1 (pickThread_mem (threadsIn_ne_nil.2 h))

/-! ### IRQEN_WRITE (R203) -/

section
variable {s : State}

theorem irqEnWrite_off (hb : s.txBusy = false) (hacq : ∀ w ∈ s.threads, w.state ≠ .acq) :
    irqEnWrite false s = .next { s with irqEn := false } := by
  have hnil : s.threadsIn .acq = [] := threadsIn_eq_nil hacq
  simp [irqEnWrite, hb, hnil]

theorem irqEnWrite_off_busy (h : s.txBusy = true ∨ ∃ w ∈ s.threads, w.state = .acq) :
    irqEnWrite false s = raiseFault .irqOffBusy (s.pickThread (s.threadsIn .acq)) s := by
  have hguard : (s.txBusy || s.threadsIn .acq != []) = true := by
    rwa [Bool.or_eq_true, bne_iff_ne, threadsIn_ne_nil]
  exact if_pos hguard

theorem irqEnWrite_on (hpoll : ∀ w ∈ s.threads, w.state ≠ .poll) :
    irqEnWrite true s = .next { s with irqEn := true } := by
  have hnil : s.threadsIn .poll = [] := threadsIn_eq_nil hpoll
  simp [irqEnWrite, hnil]

theorem irqEnWrite_on_poll (h : ∃ w ∈ s.threads, w.state = .poll) :
    irqEnWrite true s = raiseFault .irqOnPoll (s.pickThread (s.threadsIn .poll)) s :=
  if_pos (bne_iff_ne.2 (threadsIn_ne_nil.2 h))

end

/-! ### Register writes (R200 to R203) -/

section
variable {s : State} {t v : Nat} {th : Thread}

theorem crWrite_mode (hf : s.fault = none) (hth : s.ThreadAt t .idle th) (hv : v ≤ 2) :
    crWrite t 0 v s = .next { s with mode := BitVec.ofNat 2 v } := by
  obtain ⟨hget, hst⟩ := hth
  have hrange : ¬ 3 < v := by omega
  have hlegal : v ≠ 3 := by omega
  rw [crWrite, threadStep_eq hf hget hst]
  exact (if_neg hrange).trans (if_neg hlegal)

theorem crWrite_genPresent (hf : s.fault = none) (hth : s.ThreadAt t .idle th) (hv : v ≤ 1) :
    crWrite t 1 v s = .next { s with genPresent := v == 1 } := by
  obtain ⟨hget, hst⟩ := hth
  rw [crWrite, threadStep_eq hf hget hst]
  exact if_neg hv.not_gt

theorem crWrite_irqEn (hf : s.fault = none) (hth : s.ThreadAt t .idle th) (hv : v ≤ 1) :
    crWrite t 2 v s = irqEnWrite (v == 1) s := by
  obtain ⟨hget, hst⟩ := hth
  rw [crWrite, threadStep_eq hf hget hst]
  exact if_neg hv.not_gt

end

theorem exec_crw (r : BitVec 2) (v : BitVec 6) (s : State) :
    exec (.crw r v) s = crWrite 0 r.toNat v.toNat s := rfl

/-- Settles O34: the two tests of IRQEN_WRITE range over exactly the threads in ACQ and in POLL, and a
fault's info is picked from those. -/
theorem crwWritesIrqEnUnlessACallForbids : Obligations.CrwWritesIrqEnUnlessACallForbids := by
  intro s th hf hth
  have hoff : exec (.crw 2 0) s = irqEnWrite false s := crWrite_irqEn hf hth (v := 0) (by decide)
  have hon : exec (.crw 2 1) s = irqEnWrite true s := crWrite_irqEn hf hth (v := 1) (by decide)
  rw [hoff, hon]
  refine ⟨irqEnWrite_off, fun hbusy => ?offBusy, irqEnWrite_on, fun hpoll => ?onPoll⟩
  case offBusy => exact ⟨_, irqEnWrite_off_busy hbusy, pickThread_threadsIn⟩
  case onPoll =>
    obtain ⟨w, hw⟩ := pickThread_threadsIn hpoll
    exact ⟨_, w, irqEnWrite_on_poll hpoll, hw⟩

/-- Settles O33: neither value check of CRWRITE refuses the value. -/
theorem crwWritesModeAndGenPresent : Obligations.CrwWritesModeAndGenPresent := by
  intro s th v hf hth
  refine ⟨fun hv => crWrite_mode hf hth hv, fun hv => ?genPresent⟩
  have hone : (v.toNat == 1) = decide (v = 1) :=
    decide_eq_decide.2 (BitVec.toNat_eq (y := 1)).symm
  rw [exec_crw, ← hone]
  exact crWrite_genPresent hf hth hv

/-! ### Register reads (R204) -/

/-- The registers CR0 to CR3, each zero-extended to 8 bits (R45). -/
theorem crValue_register (r : BitVec 2) (s : State) :
    ∃ v : Byte, s.crValue r.toNat = some v ∧
      v.toNat = (if r = 0 then s.mode.toNat else if r = 1 then s.genPresent.toNat
        else if r = 2 then s.irqEn.toNat else s.mods.toNat) := by
  have hr : r = 0 ∨ r = 1 ∨ r = 2 ∨ r = 3 := by revert r; decide
  obtain rfl | rfl | rfl | rfl := hr
  · exact ⟨_, rfl, BitVec.toNat_setWidth_of_le (by decide)⟩
  · exact ⟨_, rfl, (BitVec.toNat_setWidth_of_le (by decide)).trans (BitVec.toNat_ofBool _)⟩
  · exact ⟨_, rfl, (BitVec.toNat_setWidth_of_le (by decide)).trans (BitVec.toNat_ofBool _)⟩
  · exact ⟨_, rfl, BitVec.toNat_setWidth_of_le (by decide)⟩

theorem crValue_of_le {r : Nat} (hr : r ≤ 3) (s : State) : ∃ v : Byte, s.crValue r = some v := by
  obtain ⟨v, hv, -⟩ := crValue_register (BitVec.ofNat 2 r) s
  rw [BitVec.toNat_ofNat, Nat.mod_eq_of_lt (by omega)] at hv
  exact ⟨v, hv⟩

theorem crValue_of_gt {r : Nat} (hr : 3 < r) (s : State) : s.crValue r = none := by
  match r with
  | n + 4 => rfl

section
variable {s : State} {t r : Nat} {th : Thread}

theorem crRead_of_some (hf : s.fault = none) (hth : s.ThreadAt t .idle th) {v : Byte}
    (hv : s.crValue r = some v) :
    crRead t r s = .next { s with history := s.history ++ [.ret t .crRead (.value v)] } := by
  obtain ⟨hget, hst⟩ := hth
  rw [crRead, threadStep_eq hf hget hst, hv]
  rfl

theorem crRead_of_none (hf : s.fault = none) (hth : s.ThreadAt t .idle th)
    (hv : s.crValue r = none) : crRead t r s = raiseFault .crWrite r s := by
  obtain ⟨hget, hst⟩ := hth
  rw [crRead, threadStep_eq hf hget hst, hv]

end

/-- Settles O36: CRREAD emits the register's value, which exists exactly for the numbers up to 3. -/
theorem readsReturnTheRegister : Obligations.ReadsReturnTheRegister := by
  refine ⟨fun s th r hf hth => ?word, fun s th t r hf hth => ⟨fun hr => ?value, fun hr => ?fault⟩⟩
  case word =>
    obtain ⟨v, hv, hval⟩ := crValue_register r s
    exact ⟨v, crRead_of_some hf hth hv, hval⟩
  case value =>
    obtain ⟨v, hv⟩ := crValue_of_le hr s
    exact ⟨v, hv, crRead_of_some hf hth hv⟩
  case fault => exact crRead_of_none hf hth (crValue_of_gt hr s)

/-! ### REENABLE (R205) -/

/-- Settles O37: REEN is REENABLE by T0, whose TH_STATE enables it. -/
theorem reenClearsOnlyMods : Obligations.ReenClearsOnlyMods := by
  rintro s th hf ⟨hget, hst⟩
  exact reenable_next.2 ⟨th, hf, hget, hst, rfl⟩

/-! ### Requests without a meaning (R3, R209) -/

theorem refuseRequest_of_running {s : State} (r : Refusal) (hf : s.fault = none) :
    refuseRequest r s = .refused r := whenRunning_none _ hf

/-- Settles O51: in a running block a request without a meaning reaches its refusal. -/
theorem requestsOutOfScopeAreRefused : Obligations.RequestsOutOfScopeAreRefused := by
  intro s a hf
  exact ⟨refuseRequest_of_running .bell hf, refuseRequest_of_running .consoleReadKey hf,
    refuseRequest_of_running .registerAccess hf⟩

end Sys2Proof.Machine
end

section
/-! The power-on state and RESET (70_reset_and_hazards.md R250 to R253, 10_state.md R47). -/

namespace Sys2Proof.Machine

/-! ### Operations that answer a next state (R93) -/

/-- The operation answers a next state, which may be a faulted one. -/
def Answers (o : Out) : Prop := ∃ t, o = .next t

theorem Answers.ne_blocked {o : Out} (h : Answers o) : o ≠ .refused .blocked := by
  obtain ⟨t, rfl⟩ := h
  nofun

theorem answers_next (t : State) : Answers (.next t) := ⟨t, rfl⟩

theorem answers_raiseFault (c : FaultCode) (info : Nat) (s : State) : Answers (raiseFault c info s) :=
  answers_next _

theorem answers_ite {c : Prop} [Decidable c] {k l : Out} (hk : Answers k) (hl : Answers l) :
    Answers (if c then k else l) := by
  split
  · exact hk
  · exact hl

theorem irqEnWrite_answers (v : Bool) (s : State) : Answers (irqEnWrite v s) :=
  answers_ite (answers_raiseFault ..) (answers_ite (answers_raiseFault ..) (answers_next _))

section
variable {s : State} {t : Nat} {th : Thread}

theorem threadStep_answers {st : ThState} {k : Thread → Out} (hf : s.fault = none)
    (hth : s.ThreadAt t st th) (hk : Answers (k th)) : Answers (threadStep t st s k) := by
  obtain ⟨hget, hst⟩ := hth
  rwa [threadStep_eq hf hget hst]

/-! A thread in IDLE may issue every control operation and start every call: a check that fails is a
fault, and the fault is a step too (R11, R231). -/

theorem crWrite_answers (r v : Nat) (hf : s.fault = none) (hth : s.ThreadAt t .idle th) :
    Answers (crWrite t r v s) := by
  refine threadStep_answers hf hth ?_
  match r with
  | 0 => exact answers_ite (answers_raiseFault ..) (answers_ite (answers_raiseFault ..) (answers_next _))
  | 1 => exact answers_ite (answers_raiseFault ..) (answers_next _)
  | 2 => exact answers_ite (answers_raiseFault ..) (irqEnWrite_answers ..)
  | r + 3 => exact answers_raiseFault ..

theorem crRead_answers (r : Nat) (hf : s.fault = none) (hth : s.ThreadAt t .idle th) :
    Answers (crRead t r s) := by
  cases hv : s.crValue r with
  | some v => exact ⟨_, crRead_of_some hf hth hv⟩
  | none => exact ⟨_, crRead_of_none hf hth hv⟩

theorem reenable_answers (hf : s.fault = none) (hth : s.ThreadAt t .idle th) :
    Answers (reenable t s) :=
  threadStep_answers hf hth (answers_next _)

theorem resetBy_answers (hf : s.fault = none) (hth : s.ThreadAt t .idle th) : Answers (resetBy t s) :=
  threadStep_answers hf hth (answers_ite (answers_raiseFault ..) (answers_next _))

theorem sendCall_answers (base : Nat) (len : Count) (hf : s.fault = none)
    (hth : s.ThreadAt t .idle th) : Answers (sendCall t base len s) :=
  threadStep_answers hf hth <|
    answers_ite (answers_raiseFault ..) <| answers_ite (answers_raiseFault ..) <|
    answers_ite (answers_raiseFault ..) (answers_next _)

theorem sendPolling_answers (base : Nat) (len : Count) (hf : s.fault = none)
    (hth : s.ThreadAt t .idle th) : Answers (sendPolling t base len s) :=
  threadStep_answers hf hth <|
    answers_ite (answers_raiseFault ..) <| answers_ite (answers_raiseFault ..) <|
    answers_ite (answers_raiseFault ..) <| answers_ite (answers_raiseFault ..) (answers_next _)

end

/-! ### The power-on state (R251, R252) -/

theorem mem_powerOn_threads {p : Params} {n : Nat} {txrdy evqFull : Bool} {th : Thread}
    (h : th ∈ (State.powerOn p n txrdy evqFull).threads) : th = Thread.afterReset 0 :=
  List.eq_of_mem_replicate h

theorem powerOn_threadAt {p : Params} {n t : Nat} {txrdy evqFull : Bool} (ht : t < n) :
    (State.powerOn p n txrdy evqFull).ThreadAt t .idle (Thread.afterReset 0) :=
  ⟨List.getElem?_replicate_of_lt ht, rfl⟩

/-- No thread is in a call, so a step inside a call is BLOCKED. -/
theorem threadStep_powerOn_blocked {p : Params} {n t : Nat} {txrdy evqFull : Bool} {st : ThState}
    {k : Thread → Out} (ht : t < n) (hst : .idle ≠ st) :
    threadStep t st (State.powerOn p n txrdy evqFull) k = .refused .blocked :=
  threadStep_blocked rfl (powerOn_threadAt ht).1 hst

/-- The stimulus words that R252 does not enable in the power-on state, with TXRDY at the level given:
the steps of IRQ and SOFT, LINK_TX_DONE with nothing to finish, and the steps inside a call. -/
abbrev NotEnabledAtPowerOn (txrdy : Bool) (i : Instr) : Prop :=
  i = .irqrx ∨ i = .softb ∨ i = .softn ∨ i = .txi ∨ (i = .lrdy ∧ txrdy = true) ∨
    ∃ t, i = .acq t ∨ i = .sret t ∨ i = .pstep t

section
variable {p : Params} {n : Nat} {txrdy evqFull : Bool} {i : Instr}

theorem exec_powerOn_blocked (hwf : wellFormed p n .idle i = true) (hi : NotEnabledAtPowerOn txrdy i) :
    exec i (State.powerOn p n txrdy evqFull) = .refused .blocked := by
  obtain rfl | rfl | rfl | rfl | ⟨rfl, rfl⟩ | ⟨t, rfl | rfl | rfl⟩ := hi
  · rfl -- LINK_RXQ is empty
  · rfl -- SOFT_PEND = 0
  · rfl -- DR_ACTIVE = 0
  · rfl -- IRQ_EN = 0
  · rfl -- TXRDY = 1
  · exact threadStep_powerOn_blocked (of_decide_eq_true hwf) nofun
  · exact threadStep_powerOn_blocked (of_decide_eq_true hwf) nofun
  · exact threadStep_powerOn_blocked (of_decide_eq_true hwf) nofun

theorem exec_powerOn_answers (hn : 1 ≤ n) (hword : isStimulusWord i = true)
    (hwf : wellFormed p n .idle i = true) (hi : ¬ NotEnabledAtPowerOn txrdy i) :
    Answers (exec i (State.powerOn p n txrdy evqFull)) := by
  have hT0 := powerOn_threadAt (p := p) (txrdy := txrdy) (evqFull := evqFull) hn
  cases i with
  | hdrMem | hdrAms | hdrRms | hdrClk | hdrUnknown | hdrJoy0 | hdrJoy1 | keyPress | keyRelease
  | payload => cases hword
  | irqrx | softb | softn | txi | acq | sret | pstep => simp at hi
  | rx | rxe | evqf => exact answers_next _
  | lrdy =>
    obtain rfl : txrdy = false := by simpa using hi
    exact answers_next _
  | crw r v => exact crWrite_answers _ _ rfl hT0
  | crr r => exact crRead_answers _ rfl hT0
  | reen => exact reenable_answers rfl hT0
  | reset => exact resetBy_answers rfl hT0
  | send t len => exact sendCall_answers _ _ rfl (powerOn_threadAt (of_decide_eq_true hwf))
  | psend t len => exact sendPolling_answers _ _ rfl (powerOn_threadAt (of_decide_eq_true hwf))

end

/-- Settles O59: power-on writes each register, and its threads are NTHREADS copies of one after reset. -/
theorem powerOnGivesTheResetValues : Obligations.PowerOnGivesTheResetValues := by
  intro p n txrdy evqFull s
  have hlen : s.threads.length = n := List.length_replicate
  have hthreads : ∀ th ∈ s.threads, th.state = .idle ∧ th.len = 0 ∧ th.idx = 0 ∧ th.spin = 0 := by
    intro th hth
    obtain rfl := mem_powerOn_threads hth
    exact ⟨rfl, rfl, rfl, rfl⟩
  exact ⟨rfl, rfl, rfl, rfl, rfl, rfl, rfl, rfl, rfl, rfl, rfl, rfl, rfl, hlen, hthreads,
    rfl, rfl, rfl, rfl, rfl⟩

/-- Settles O58: the words R252 leaves out are BLOCKED, and every other word answers. -/
theorem powerOnStateEnablesOnlyInputsAndCalls : Obligations.PowerOnStateEnablesOnlyInputsAndCalls := by
  intro p n txrdy evqFull i hn hword hwf
  by_cases hi : NotEnabledAtPowerOn txrdy i
  · have hblocked := exec_powerOn_blocked (evqFull := evqFull) hwf hi
    exact ⟨iff_of_true hblocked hi, fun hne => absurd hblocked hne⟩
  · have hans := exec_powerOn_answers (evqFull := evqFull) hn hword hwf hi
    exact ⟨iff_of_false hans.ne_blocked hi, fun _ => hans⟩

/-! ### RESET (R250) -/

/-- The threads other than t that are in a call: the `u` of R250. -/
abbrev State.busyBeside (t : Nat) (s : State) : List Nat :=
  s.threadsWith fun u st => u != t && st != .idle

theorem mem_busyBeside {s : State} {t u : Nat} :
    u ∈ s.busyBeside t ↔ u ≠ t ∧ ∃ w, s.threads[u]? = some w ∧ w.state ≠ .idle := by
  simp only [State.busyBeside, mem_threadsWith, Bool.and_eq_true, bne_iff_ne, and_left_comm,
    exists_and_left]

theorem busyBeside_eq_nil {s : State} (h : ∀ w ∈ s.threads, w.state = .idle) (t : Nat) :
    s.busyBeside t = [] := by
  refine List.eq_nil_iff_forall_not_mem.2 fun u hu => ?_
  obtain ⟨-, w, hget, hst⟩ := mem_busyBeside.1 hu
  exact hst (h w (List.mem_of_getElem? hget))

section
variable {s : State} {t : Nat} {th : Thread}

theorem resetBy_of_quiet (hf : s.fault = none) (hth : s.ThreadAt t .idle th)
    (hquiet : s.busyBeside t = []) : resetBy t s = .next (resetState s) := by
  obtain ⟨hget, hst⟩ := hth
  rw [resetBy, threadStep_eq hf hget hst]
  exact if_neg (by simp [hquiet])

theorem resetBy_of_busy (hf : s.fault = none) (hth : s.ThreadAt t .idle th)
    (hbusy : s.busyBeside t ≠ []) :
    resetBy t s = raiseFault .resetBusy (s.pickThread (s.busyBeside t)) s := by
  obtain ⟨hget, hst⟩ := hth
  rw [resetBy, threadStep_eq hf hget hst]
  exact if_pos (bne_iff_ne.2 hbusy)

end

/-- RESET leaves the power-on state of the same parameters, threads and levels, but for the registers
R250 calls unspecified and for what it keeps. -/
theorem resetState_eq_powerOn (s : State) :
    resetState s = { State.powerOn s.cfg s.nthreads s.txrdy s.evqFull with
      ring := (resetState s).ring, pkg := (resetState s).pkg, pkgKind := (resetState s).pkgKind
      pkgLen := (resetState s).pkgLen, txCursor := (resetState s).txCursor
      threads := (resetState s).threads
      linkRxq := s.linkRxq, mem := s.mem, history := s.history, fault := s.fault
      sched := s.sched, timeIn := s.timeIn, draws := (resetState s).draws } := rfl

theorem resetState_ring_length (s : State) : (resetState s).ring.length = s.cfg.ringSize := by
  simp [resetState]

theorem resetState_threads_length (s : State) : (resetState s).threads.length = s.threads.length := by
  simp [resetState]

theorem mem_resetState_threads {s : State} {u : Thread} (h : u ∈ (resetState s).threads) :
    ∃ base, u = Thread.afterReset base := by
  obtain ⟨n, -, rfl⟩ := List.mem_map.1 h
  exact ⟨_, rfl⟩

/-- Settles O38: RESET tests for a thread besides T0 in a call, and a fault's info is picked from those. -/
theorem resetGivesTheResetValues : Obligations.ResetGivesTheResetValues := by
  intro s th hf hth
  refine ⟨fun hidle => ?quiet, fun u w hu hget hst => ?busy⟩
  case quiet =>
    refine ⟨resetState s, resetBy_of_quiet hf hth (busyBeside_eq_nil hidle 0),
      resetState_eq_powerOn s, resetState_ring_length s, resetState_threads_length s, fun x hx => ?_⟩
    obtain ⟨base, rfl⟩ := mem_resetState_threads hx
    exact ⟨rfl, rfl, rfl, rfl⟩
  case busy =>
    have hbusy : s.busyBeside 0 ≠ [] := List.ne_nil_of_mem (mem_busyBeside.2 ⟨hu, w, hget, hst⟩)
    obtain ⟨hv, w', hget', hst'⟩ := mem_busyBeside.1 (pickThread_mem hbusy)
    exact ⟨_, w', resetBy_of_busy hf hth hbusy, hv, hget', hst'⟩

end Sys2Proof.Machine
end

section
/-! The two directions of the encodings: decoding what `encode` writes, and encoding what a decoder
reads (30_encoding.md sections 1 to 6). -/

namespace Sys2Proof

/-! ### Decoding the code of an instruction -/

/-- A well-formed header is read as the class of its kind. -/
theorem decodeByte_of_headerOk {p : Params} {st : DecState} {k : Kind} {h : Byte} {len : BitVec 4}
    (hok : headerOk p st k h len = true) : decodeByte p st h = classInstr h (.hdrKnown k len) := by
  simp only [headerOk, Bool.and_eq_true, beq_iff_eq] at hok
  obtain ⟨⟨rfl, hhdr⟩, hent⟩ := hok
  exact decodeByte_knownHeader (isHeader_iff.1 hhdr) hent

/-- The byte of a well-formed byte class is read as that class. -/
theorem decodeByte_of_encode {p : Params} {n : Nat} {st : DecState} {i : Instr} {b : Byte}
    (hwf : wellFormed p n st i = true) (henc : encode i = .byte b) : decodeByte p st b = i := by
  cases i with
  | hdrMem h len | hdrAms h len | hdrRms h len | hdrClk h len | hdrJoy0 h len | hdrJoy1 h len =>
    cases henc
    exact decodeByte_of_headerOk hwf
  | hdrUnknown h =>
    cases henc
    simp only [wellFormed, Bool.and_eq_true, beq_iff_eq, Option.isNone_iff_eq_none] at hwf
    obtain ⟨⟨rfl, hhdr⟩, hent⟩ := hwf
    exact decodeByte_unknownHeader (isHeader_iff.1 hhdr) hent
  | keyPress sc =>
    cases henc
    obtain rfl : st = .idle := by simpa [wellFormed] using hwf
    obtain ⟨hhdr, hrel, hsc⟩ := press_code sc
    simp [decodeByte, classify, classInstr, hhdr, hrel, hsc]
  | keyRelease sc =>
    cases henc
    obtain ⟨rfl, hmax⟩ : st = .idle ∧ sc.toNat ≤ 0x75 := by simpa [wellFormed] using hwf
    have hhdr : isHeader (1#1 ++ sc) = false := by simpa [release_isHeader] using hmax
    obtain ⟨hrel, hsc⟩ := release_code sc
    simp [decodeByte, classify, classInstr, hhdr, hrel, hsc]
  | payload d =>
    cases henc
    obtain rfl : st = .assembling := by simpa [wellFormed] using hwf
    exact decodeByte_assembling p _
  | _ => cases henc

/-- The opcode table read at an instruction's own opcode gives the instruction, with its operands. -/
theorem decodeOp_of_encode {i : Instr} {w : StimWord} (henc : encode i = .word w) :
    decodeOp (stimOp w) (stimImm w) = some i := by
  have hflag (v : Bool) : (0#7 ++ BitVec.ofBool v).extractLsb' 1 7 = 0 ∧
      (0#7 ++ BitVec.ofBool v)[0] = v := by revert v; decide
  cases i with
  | hdrMem | hdrAms | hdrRms | hdrClk | hdrUnknown | hdrJoy0 | hdrJoy1 | keyPress | keyRelease
  | payload => cases henc
  | evqf v =>
    cases henc
    obtain ⟨hzero, hv⟩ := hflag v
    simp [decodeOp, ifZero, hzero, hv]
  | _ => cases henc; simp [decodeOp, ifZero]

/-- Well-formedness asks of a word's thread what the decoder checks (R95). -/
theorem threadOk_of_wellFormed {p : Params} {n : Nat} {st : DecState} {i : Instr}
    (hwf : wellFormed p n st i = true) : threadOk n i = true := by
  cases i with
  | send | acq | sret | psend | pstep => exact hwf
  | _ => rfl

/-- Settles O1: the byte is read back by its class, the word by the opcode table and the thread bound. -/
theorem decodeOfEncodeIsIdentity : Obligations.DecodeOfEncodeIsIdentity := by
  intro p n st i hwf
  cases henc : encode i with
  | byte b => exact congrArg some (decodeByte_of_encode hwf henc)
  | word w =>
    rw [decode, decodeWord, decodeOp_of_encode henc]
    exact if_pos (threadOk_of_wellFormed hwf)

/-! ### Encoding what a code decodes to -/

/-- A header with an entry is the well-formed header of that kind and length. -/
theorem encode_knownHeader {p : Params} {b : Byte} {e : HdrEntry} (n : Nat) (hhdr : isHeader b = true)
    (hent : hdrLookup p b = some e) :
    encode (classInstr b (.hdrKnown e.kind e.len)) = .byte b ∧
      wellFormed p n .idle (classInstr b (.hdrKnown e.kind e.len)) = true := by
  obtain ⟨k, len⟩ := e
  have hok : headerOk p .idle k b len = true := by simp [headerOk, hhdr, hent]
  cases k <;> exact ⟨rfl, hok⟩

/-- Each class of R84 keeps the whole byte in its operands. -/
theorem encode_decodeByte (p : Params) (n : Nat) (st : DecState) (b : Byte) :
    encode (decodeByte p st b) = .byte b ∧ wellFormed p n st (decodeByte p st b) = true := by
  cases st with
  | assembling => exact ⟨rfl, rfl⟩
  | idle =>
    cases hhdr : isHeader b with
    | true =>
      cases hent : hdrLookup p b with
      | none =>
        rw [decodeByte_unknownHeader (isHeader_iff.1 hhdr) hent]
        exact ⟨rfl, by simp [wellFormed, hhdr, hent]⟩
      | some e =>
        rw [decodeByte_knownHeader (isHeader_iff.1 hhdr) hent]
        exact encode_knownHeader n hhdr hent
    | false =>
      have hlt : b.toNat < 0xF6 := by rwa [← Bool.not_eq_true, isHeader_iff, Nat.not_le] at hhdr
      cases hrel : released b with
      | true =>
        have hlo : 0x80 ≤ b.toNat := released_iff.1 hrel
        have hmax : (scancode b).toNat ≤ 0x75 := by rw [scancode_toNat]; omega
        rw [decodeByte_release p hlo hlt]
        exact ⟨congrArg Code.byte (release_append_scancode hrel), by simpa [wellFormed] using hmax⟩
      | false =>
        have hlo : b.toNat < 0x80 := by rwa [← Bool.not_eq_true, released_iff, Nat.not_le] at hrel
        rw [decodeByte_press p hlo]
        exact ⟨congrArg Code.byte (press_append_scancode hrel), rfl⟩

/-! An immediate whose reserved bits are 0 is made of its other fields. -/

theorem immHi_append_zero {i : Byte} (h : (immLo i).toNat = 0) : immHi i ++ 0#4 = i := by
  revert i; decide

theorem immReg_append_zero {i : Byte} (h : (immVal i).toNat = 0) : immReg i ++ 0#6 = i := by
  revert i; decide

theorem zero_append_flag {i : Byte} (h : (i.extractLsb' 1 7).toNat = 0) :
    0#7 ++ BitVec.ofBool (i.getLsbD 0) = i := by
  revert i; decide

/-- An opcode and an immediate that decode are those of the instruction read. -/
theorem encode_of_decodeOp {op imm : Byte} {i : Instr} (h : decodeOp op imm = some i) :
    encode i = .word (stimWord op imm) := by
  have hcode {a c : Byte} (ha : op.toNat = a.toNat) (hc : c = imm) :
      Code.word (stimWord a c) = .word (stimWord op imm) := by
    rw [BitVec.eq_of_toNat_eq ha, hc]
  unfold decodeOp at h
  split at h
  case h_18 => cases h
  case h_1 hop | h_2 hop => cases h; exact hcode hop rfl
  case h_6 hop => cases h; exact hcode hop (immReg_immVal imm)
  case h_8 hop | h_13 hop => cases h; exact hcode hop (immHi_immLo imm)
  case h_7 hop =>
    obtain ⟨hzero, rfl⟩ := ifZero_eq_some.1 h
    exact hcode hop (immReg_append_zero hzero)
  case h_9 hop | h_10 hop | h_14 hop =>
    obtain ⟨hzero, rfl⟩ := ifZero_eq_some.1 h
    exact hcode hop (immHi_append_zero hzero)
  case h_17 hop =>
    obtain ⟨hzero, rfl⟩ := ifZero_eq_some.1 h
    exact hcode hop (zero_append_flag hzero)
  all_goals
    rename_i hop
    obtain ⟨hzero, rfl⟩ := ifZero_eq_some.1 h
    exact hcode hop (BitVec.eq_of_toNat_eq hzero.symm)

theorem decodeWord_eq_some {n : Nat} {w : StimWord} {i : Instr} :
    decodeWord n w = some i ↔ decodeOp (stimOp w) (stimImm w) = some i ∧ threadOk n i = true := by
  unfold decodeWord
  cases decodeOp (stimOp w) (stimImm w) with
  | none => simp
  | some j =>
    simp only [Option.ite_none_right_eq_some, Option.some.injEq]
    exact ⟨fun ⟨hok, heq⟩ => ⟨heq, heq ▸ hok⟩, fun ⟨heq, hok⟩ => ⟨heq ▸ hok, heq⟩⟩

theorem encode_of_decodeWord {n : Nat} {w : StimWord} {i : Instr} (h : decodeWord n w = some i) :
    encode i = .word w := by
  rw [encode_of_decodeOp (decodeWord_eq_some.1 h).1, stimWord_fields]

/-- An instruction with a word is well-formed when the thread it names exists. -/
theorem wellFormed_of_threadOk {p : Params} {n : Nat} {st : DecState} {i : Instr} {w : StimWord}
    (henc : encode i = .word w) (hok : threadOk n i = true) : wellFormed p n st i = true := by
  cases i with
  | hdrMem | hdrAms | hdrRms | hdrClk | hdrUnknown | hdrJoy0 | hdrJoy1 | keyPress | keyRelease
  | payload => cases henc
  | send | acq | sret | psend | pstep => exact hok
  | _ => rfl

/-- Settles O2: every field of a byte or a word that decodes is kept in the instruction. -/
theorem encodeOfDecodeIsIdentity : Obligations.EncodeOfDecodeIsIdentity := by
  intro p n st c i h
  cases c with
  | byte b =>
    obtain rfl := Option.some.inj h
    exact encode_decodeByte p n st b
  | word w =>
    have henc := encode_of_decodeWord h
    exact ⟨henc, wellFormed_of_threadOk henc (decodeWord_eq_some.1 h).2⟩

/-- Settles O3: the codes of R81, R82 and R92 evaluated by the decoder. -/
theorem writtenOutCodesDecode : Obligations.WrittenOutCodesDecode := by
  unfold Obligations.WrittenOutCodesDecode
  decide

end Sys2Proof
end

section
/-! The invariant of the machine (10_state.md R39, 45_control.md R208): the power-on state has it, and
every step keeps it. -/

namespace Sys2Proof.Machine

/-! ### The parts of the invariant -/

theorem addrSpace_pos (p : Params) : 0 < addrSpace p := Nat.two_pow_pos _

theorem addrCut_lt (p : Params) (a : Nat) : addrCut p a < addrSpace p := Nat.mod_lt _ (addrSpace_pos p)

/-- A thread in no call has only its base checked. -/
theorem callInv_of_idle {s : State} {th : Thread} (hst : th.state = .idle)
    (hbase : th.base < addrSpace s.cfg) : s.CallInv th := by
  refine ⟨hbase, fun h => absurd hst h, fun h => ?_, fun h => ?_⟩ <;> simp [hst] at h

/-- While a thread is in POLL every other thread is IDLE (R208), over the thread registers. -/
theorem pollAlone_iff {s : State} :
    (∀ u < s.nthreads, ∀ v < s.nthreads,
      s.threadIs u (· == .poll) = true → u ≠ v → s.threadIs v (· == .idle) = true) ↔
    ∀ u v a b, s.ThreadAt u .poll a → u ≠ v → s.threads[v]? = some b → b.state = .idle := by
  constructor
  · intro h u v a b ⟨ha, hpoll⟩ hne hb
    obtain ⟨hu, -⟩ := List.getElem?_eq_some_iff.1 ha
    obtain ⟨hv, -⟩ := List.getElem?_eq_some_iff.1 hb
    have hidle := h u hu v hv (threadIs_iff.2 ⟨a, ha, beq_iff_eq.2 hpoll⟩) hne
    obtain ⟨w, hw, hst⟩ := threadIs_iff.1 hidle
    obtain rfl : w = b := Option.some.inj (hw.symm.trans hb)
    exact beq_iff_eq.1 hst
  · intro h u hu v hv hpoll hne
    obtain ⟨a, ha, hst⟩ := threadIs_iff.1 hpoll
    obtain ⟨b, hb⟩ : ∃ b, s.threads[v]? = some b := ⟨_, List.getElem?_eq_getElem hv⟩
    exact threadIs_iff.2 ⟨b, hb, beq_iff_eq.2 (h u v a b ⟨ha, beq_iff_eq.1 hst⟩ hne hb)⟩

section
variable {s : State}

theorem State.Inv.pollAlone (h : s.Inv) {u v : Nat} {a b : Thread} (ha : s.ThreadAt u .poll a)
    (hne : u ≠ v) (hb : s.threads[v]? = some b) : b.state = .idle := by
  obtain ⟨-, -, -, -, -, ⟨-, halone⟩, -⟩ := h
  exact pollAlone_iff.1 halone u v a b ha hne hb

/-- A polled call runs with interrupts off and no transmission outstanding (R180, R208). -/
theorem State.Inv.poll_quiet (h : s.Inv) {u : Nat} {a : Thread} (ha : s.ThreadAt u .poll a) :
    s.irqEn = false ∧ s.txBusy = false := by
  obtain ⟨hget, hst⟩ := ha
  obtain ⟨-, -, -, hpoll⟩ := h.callInv hget
  obtain ⟨hirq, hb, -⟩ := hpoll hst
  exact ⟨hirq, hb⟩

theorem State.Inv.ne_poll_of_irqEn (h : s.Inv) (hirq : s.irqEn = true) {u : Nat} {a : Thread}
    (ha : s.threads[u]? = some a) : a.state ≠ .poll := fun hst => by
  simp [(h.poll_quiet ⟨ha, hst⟩).1] at hirq

/-! ### Replacing the registers of one thread -/

/-- What thread n's new registers `x` must meet for the invariant: the checks of its call, and that no
polled call is in progress beside another call. -/
theorem State.Inv.setThread (h : s.Inv) {n : Nat} {old x : Thread} (hold : s.threads[n]? = some old)
    (hwait : old.state = .wait → s.txBusy = false) (hx : s.CallInv x)
    (hothers : x.state = .poll → ∀ v b, n ≠ v → s.threads[v]? = some b → b.state = .idle)
    (hnopoll : x.state ≠ .idle → ∀ v b, n ≠ v → s.threads[v]? = some b → b.state ≠ .poll) :
    (s.setThread n x).Inv := by
  obtain ⟨⟨hwf, hne⟩, hring, hdec, hmode, ⟨hbusy, hcur, htx⟩, ⟨hcalls, -⟩, hmem⟩ := id h
  have hlt : n < s.threads.length := (List.getElem?_eq_some_iff.1 hold).1
  have hself (w : Thread) (hw : (s.setThread n x).threads[n]? = some w) : w = x := by
    rw [State.setThread_threads, List.getElem?_set_self hlt] at hw
    exact (Option.some.inj hw).symm
  have hother {v : Nat} (hv : n ≠ v) : (s.setThread n x).threads[v]? = s.threads[v]? :=
    List.getElem?_set_ne hv
  refine ⟨⟨hwf, ?threads⟩, hring, hdec, hmode, ⟨hbusy, hcur, fun hb => ?tx⟩, ⟨fun th hth => ?call,
    pollAlone_iff.2 fun u v a b ⟨ha, hpoll⟩ huv hb => ?alone⟩, hmem⟩
  case threads => exact List.ne_nil_of_length_pos (by simpa using Nat.zero_lt_of_lt hlt)
  case tx =>
    obtain ⟨hirq, ⟨w, hw, hst, hrest⟩, htop⟩ := htx hb
    refine ⟨hirq, ⟨w, ?_, hst, hrest⟩, htop⟩
    obtain ⟨i, hi⟩ := List.mem_iff_getElem?.1 hw
    refine List.mem_of_getElem? ((hother ?_).trans hi)
    rintro rfl
    obtain rfl : old = w := Option.some.inj (hold.symm.trans hi)
    simp [hwait hst] at hb
  case call =>
    rcases mem_setThread hth with rfl | ⟨i, -, hi⟩
    · exact hx
    · exact hcalls th (List.mem_of_getElem? hi)
  case alone =>
    by_cases hu : n = u
    · subst hu
      obtain rfl := hself a ha
      exact hothers hpoll v b huv ((hother huv).symm.trans hb)
    · rw [hother hu] at ha
      by_cases hv : n = v
      · subst hv
        obtain rfl := hself b hb
        by_contra hst
        exact hnopoll hst u a hu ha hpoll
      · exact h.pollAlone ⟨ha, hpoll⟩ huv ((hother hv).symm.trans hb)

/-! ### The transmitter keeps it (44_output.md) -/

/-- With interrupts on no call is a polled one, so a call's checks do not depend on TX_BUSY. -/
theorem State.Inv.callInv_of_irqEn (h : s.Inv) (hirq : s.irqEn = true) (busy : Bool) {th : Thread}
    (hth : th ∈ s.threads) : State.CallInv { s with txBusy := busy } th := by
  obtain ⟨i, hi⟩ := List.mem_iff_getElem?.1 hth
  obtain ⟨hbase, hbuf, hacq, -⟩ := h.callInv hi
  exact ⟨hbase, hbuf, hacq, fun hst => absurd hst (h.ne_poll_of_irqEn hirq hi)⟩

/-- Loading the registers of the transmitter for a thread in WAIT (R172). -/
theorem State.Inv.startTransmission (h : s.Inv) (hirq : s.irqEn = true) {w : Thread}
    (hw : w ∈ s.threads) (hst : w.state = .wait) :
    State.Inv { s with txBusy := true, txCursor := w.base, txRem := w.len } := by
  obtain ⟨i, hi⟩ := List.mem_iff_getElem?.1 hw
  obtain ⟨hbase, hbuf, -⟩ := h.callInv hi
  obtain ⟨hlen, htop⟩ := hbuf (by simp [hst])
  obtain ⟨hcfg, hring, hdec, hmode, -, ⟨-, halone⟩, hmem⟩ := id h
  exact ⟨hcfg, hring, hdec, hmode,
    ⟨iff_of_true rfl hlen, hbase, fun _ => ⟨hirq, ⟨w, hw, hst, le_rfl, rfl⟩, htop⟩⟩,
    ⟨fun _ hth => h.callInv_of_irqEn hirq _ hth, halone⟩, hmem⟩

/-- The byte of a transmission leaves the rest of the same buffer, or ends the transmission. -/
theorem State.Inv.txByte (h : s.Inv) (hb : s.txBusy = true) : (txByte s).Inv := by
  rw [txByte_of_busy hb h.txCursor_lt]
  obtain ⟨hcfg, hring, hdec, hmode, ⟨hbusy, hcur, htx⟩, ⟨-, halone⟩, hmem⟩ := id h
  obtain ⟨hirq, ⟨w, hw, hst, hle, hrest⟩, htop⟩ := htx hb
  have hrem : s.txRem.toNat ≠ 0 := fun h0 => hbusy.1 hb (BitVec.eq_of_toNat_eq h0)
  have hdecr : (s.txRem - 1).toNat = s.txRem.toNat - 1 :=
    BitVec.toNat_sub_of_le (BitVec.le_def.2 (Nat.one_le_iff_ne_zero.2 hrem))
  refine ⟨hcfg, hring, hdec, hmode, ⟨?busy, Nat.mod_lt _ (addrSpace_pos _), fun hmore => ?rest⟩,
    ⟨fun _ hth => h.callInv_of_irqEn hirq _ hth, halone⟩, hmem⟩
  case busy => exact decide_eq_true_iff.trans (not_congr sub_eq_zero.symm)
  case rest =>
    have hone : s.txRem.toNat ≠ 1 := fun h1 => by
      have : s.txRem = 1 := BitVec.eq_of_toNat_eq h1
      simp [this] at hmore
    have hnext : (s.txCursor + 1) % 2 ^ s.cfg.addrW = s.txCursor + 1 :=
      Nat.mod_eq_of_lt (show s.txCursor + 1 < addrSpace s.cfg by omega)
    dsimp only
    rw [hnext, hdecr]
    exact ⟨hirq, ⟨w, hw, hst, by omega, by omega⟩, by omega⟩

theorem State.Inv.txFirst (h : s.Inv) (hb : s.txBusy = true) : (txFirst s).Inv := by
  unfold Machine.txFirst
  split
  · exact h.txByte hb
  · exact h

variable {s' : State} {n : Nat}

theorem sendCall_inv {base : Nat} {len : Count} (h : s.Inv) (hstep : sendCall n base len s = .next s') :
    s'.Inv := by
  obtain ⟨th, -, hget, hst, ⟨c, rfl⟩ | ⟨hlen, hfit, hirq, rfl⟩⟩ := sendCall_next hstep
  · exact h
  · refine h.setThread hget (by simp [hst]) ?_ nofun fun _ v b _ hb => h.ne_poll_of_irqEn hirq hb
    exact ⟨addrCut_lt _ _, fun _ => ⟨hlen, hfit⟩, fun _ => hirq, nofun⟩

theorem acquire_inv (h : s.Inv) (hstep : acquire n s = .next s') : s'.Inv := by
  obtain ⟨th, -, hget, hst, -, rfl⟩ := acquire_next.1 hstep
  obtain ⟨hbase, hbuf, hacq, -⟩ := h.callInv hget
  have hirq : s.irqEn = true := hacq hst
  have hwaiting : (s.setThread n { th with state := .wait }).Inv := by
    refine h.setThread hget (by simp [hst]) ?_ nofun fun _ v b _ hb => h.ne_poll_of_irqEn hirq hb
    exact ⟨hbase, fun _ => hbuf (by simp [hst]), nofun, nofun⟩
  have hmem : { th with state := .wait } ∈ (s.setThread n { th with state := .wait }).threads :=
    List.mem_set (List.getElem?_eq_some_iff.1 hget).1 _
  exact (hwaiting.startTransmission hirq hmem rfl).txFirst rfl

theorem sendReturn_inv (h : s.Inv) (hstep : sendReturn n s = .next s') : s'.Inv := by
  obtain ⟨th, -, hget, -, hb, rfl⟩ := sendReturn_next.1 hstep
  obtain ⟨hbase, -⟩ := h.callInv hget
  have hsent : (s.emit (.ret n .send .ok)).Inv := h
  exact hsent.setThread hget (fun _ => hb) (callInv_of_idle rfl hbase) nofun (absurd rfl)

theorem execTxi_inv (h : s.Inv) (hstep : execTxi s = .next s') : s'.Inv := by
  obtain ⟨-, -, -, hb, rfl⟩ := execTxi_next.1 hstep
  exact h.txByte hb

theorem sendPolling_inv {base : Nat} {len : Count} (h : s.Inv)
    (hstep : sendPolling n base len s = .next s') : s'.Inv := by
  obtain ⟨th, -, hget, hst, ⟨c, rfl⟩ | ⟨hlen, hfit, hirq, hb, hquiet, rfl⟩⟩ := sendPolling_next hstep
  · exact h
  · have hidle : ∀ v b, n ≠ v → s.threads[v]? = some b → b.state = .idle := by
      intro v b hv hget'
      by_contra hbusy
      exact List.eq_nil_iff_forall_not_mem.1 hquiet v (mem_busyBeside.2 ⟨Ne.symm hv, b, hget', hbusy⟩)
    have htimeout : 1 ≤ s.cfg.pollTimeout := by
      obtain ⟨⟨⟨-, -, hpos, -⟩, -⟩, -⟩ := h
      exact hpos
    refine h.setThread hget (by simp [hst]) ?_ (fun _ => hidle) fun _ v b hv hget' => ?_
    · have hpos : 0 < len.toNat := Nat.pos_of_ne_zero fun h0 => hlen (BitVec.eq_of_toNat_eq h0)
      exact ⟨addrCut_lt _ _, fun _ => ⟨hlen, hfit⟩, nofun, fun _ => ⟨hirq, hb, hpos, htimeout⟩⟩
    · simp [hidle v b hv hget']

/-- A thread in POLL may go on polling, or return: every other thread is IDLE. -/
theorem State.Inv.setPolling (h : s.Inv) {th x : Thread} (hth : s.ThreadAt n .poll th)
    (hx : s.CallInv x) : (s.setThread n x).Inv := by
  have hidle := fun v b hv hget => h.pollAlone (v := v) (b := b) hth hv hget
  refine h.setThread hth.1 (by simp [hth.2]) hx (fun _ => hidle) fun _ v b hv hget => ?_
  simp [hidle v b hv hget]

theorem pollWrite_inv {th : Thread} (h : s.Inv) (hth : s.ThreadAt n .poll th) :
    (pollWrite n th s).Inv := by
  obtain ⟨hbase, hbuf, -, hpoll⟩ := h.callInv hth.1
  obtain ⟨hirq, hb, hidx, hspin⟩ := hpoll hth.2
  by_cases hlast : th.idx + 1 = th.len
  · rw [pollWrite_of_eq n hlast]
    exact h.setPolling hth (x := { th with idx := th.idx + 1, spin := 0, state := .idle })
      (callInv_of_idle rfl hbase)
  · rw [pollWrite_of_ne n hlast]
    refine h.setPolling hth (x := { th with idx := th.idx + 1, spin := 0 })
      ⟨hbase, hbuf, ?_, fun _ => ⟨hirq, hb, ?_, ?_⟩⟩
    · simp [hth.2]
    · have hlast' := mt (succ_eq_iff_of_lt hidx).2 hlast
      have hsucc : (th.idx + 1).toNat = th.idx.toNat + 1 :=
        BitVec.toNat_add_of_lt (by have := th.len.isLt; simpa using by omega)
      simpa [hsucc] using by omega
    · exact Nat.zero_lt_of_lt hspin

theorem pollFail_inv {th : Thread} (h : s.Inv) (hth : s.ThreadAt n .poll th) :
    (pollFail n th s).Inv := by
  obtain ⟨hbase, hbuf, -, hpoll⟩ := h.callInv hth.1
  obtain ⟨hirq, hb, hidx, hspin⟩ := hpoll hth.2
  by_cases hlast : (th.spin + 1).toNat = s.cfg.pollTimeout
  · rw [pollFail_of_eq n hlast]
    exact h.setPolling hth (x := { th with spin := th.spin + 1, state := .idle })
      (callInv_of_idle rfl hbase)
  · rw [pollFail_of_ne n hlast]
    refine h.setPolling hth ⟨hbase, hbuf, ?_, fun _ => ⟨hirq, hb, hidx, ?_⟩⟩
    · simp [hth.2]
    · have hle : (th.spin + 1).toNat ≤ th.spin.toNat + 1 := by
        rw [BitVec.toNat_add]; exact Nat.mod_le _ _
      dsimp only
      omega

theorem pollStep_inv (h : s.Inv) (hstep : pollStep n s = .next s') : s'.Inv := by
  obtain ⟨th, -, hget, hst, rfl⟩ := pollStep_next.1 hstep
  split
  · exact pollWrite_inv h ⟨hget, hst⟩
  · exact pollFail_inv h ⟨hget, hst⟩

/-! ### The host control operations keep it (45_control.md) -/

theorem irqEnWrite_inv {v : Bool} (h : s.Inv) (hstep : irqEnWrite v s = .next s') : s'.Inv := by
  obtain ⟨r, rfl⟩ | ⟨hoff, hon, rfl⟩ := irqEnWrite_next hstep
  · exact h
  have hacq : v = false → ∀ th ∈ s.threads, th.state ≠ .acq := fun hv th hth hst =>
    threadsIn_ne_nil.2 ⟨th, hth, hst⟩ (hoff hv).2
  have hpoll : v = true → ∀ th ∈ s.threads, th.state ≠ .poll := fun hv th hth hst =>
    threadsIn_ne_nil.2 ⟨th, hth, hst⟩ (hon hv)
  obtain ⟨hcfg, hring, hdec, hmode, ⟨hbusy, hcur, htx⟩, ⟨hcalls, halone⟩, hmem⟩ := h
  refine ⟨hcfg, hring, hdec, hmode, ⟨hbusy, hcur, fun hb => ?_⟩, ⟨fun th hth => ?_, halone⟩, hmem⟩
  · obtain ⟨-, hrest⟩ := htx hb
    refine ⟨?_, hrest⟩
    by_contra hv
    simp [(hoff (by simpa using hv)).1] at hb
  · obtain ⟨hbase, hbuf, -, hpolled⟩ := hcalls th hth
    refine ⟨hbase, hbuf, fun hst => ?_, fun hst => ?_⟩
    · by_contra hv
      exact hacq (by simpa using hv) th hth hst
    · obtain ⟨-, hrest⟩ := hpolled hst
      refine ⟨?_, hrest⟩
      by_contra hv
      exact hpoll (by simpa using hv) th hth hst

theorem crWrite_inv {r v : Nat} (h : s.Inv) (hstep : crWrite n r v s = .next s') : s'.Inv := by
  obtain ⟨th, -, -, -, ⟨c, rfl⟩ | ⟨-, hv, rfl⟩ | ⟨-, -, rfl⟩ | ⟨-, -, hirq⟩⟩ := crWrite_next hstep
  · exact h
  · have hmode : BitVec.ofNat 2 v ≠ 3 := by interval_cases v <;> decide
    obtain ⟨hcfg, hring, hdec, -, hrest⟩ := h
    exact ⟨hcfg, hring, hdec, hmode, hrest⟩
  · exact h
  · exact irqEnWrite_inv h hirq

theorem crRead_inv {r : Nat} (h : s.Inv) (hstep : crRead n r s = .next s') : s'.Inv := by
  obtain ⟨th, -, -, -, ⟨c, rfl⟩ | ⟨v, -, rfl⟩⟩ := crRead_next hstep <;> exact h

theorem reenable_inv (h : s.Inv) (hstep : reenable n s = .next s') : s'.Inv := by
  obtain rfl := reenable_eq hstep
  exact h

theorem resetState_inv (h : s.Inv) : (resetState s).Inv := by
  obtain ⟨⟨hwf, hne⟩, -, -, -, -, -, hmem⟩ := h
  have hidle : ∀ th ∈ (resetState s).threads, th.state = .idle ∧ th.base < addrSpace s.cfg := by
    intro th hth
    obtain ⟨u, -, rfl⟩ := List.mem_map.1 hth
    exact ⟨rfl, addrCut_lt _ _⟩
  refine ⟨⟨hwf, ?threads⟩, ⟨resetState_ring_length s, Nat.zero_le _, by simp [resetState]⟩,
    ⟨iff_of_true rfl rfl, nofun⟩, (show (0 : BitVec 2) ≠ 3 by decide),
    ⟨by simp [resetState], addrCut_lt _ _, nofun⟩,
    ⟨fun th hth => callInv_of_idle (hidle th hth).1 (hidle th hth).2,
      pollAlone_iff.2 fun u v a b _ _ hb => (hidle b (List.mem_of_getElem? hb)).1⟩, hmem⟩
  case threads =>
    refine List.ne_nil_of_length_pos ?_
    rw [resetState_threads_length]
    exact List.length_pos_iff.2 hne

theorem resetBy_inv (h : s.Inv) (hstep : resetBy n s = .next s') : s'.Inv := by
  obtain ⟨th, -, -, -, ⟨c, rfl⟩ | ⟨-, rfl⟩⟩ := resetBy_next hstep
  · exact h
  · exact resetState_inv h

/-! ### The ring and the decoder keep it (41_ring.md, 42_decoder.md) -/

theorem execIrqrx_inv (h : s.Inv) (hstep : execIrqrx s = .next s') : s'.Inv := by
  obtain ⟨-, -, b, err, rest, -, rfl⟩ := execIrqrx_next.1 hstep
  split
  · exact h
  · obtain ⟨hcfg, ⟨hlen, hring⟩, hothers⟩ := h
    exact ⟨hcfg, ⟨List.length_set.trans hlen, hring⟩, hothers⟩

theorem ringSizeW_toNat {p : Params} (h : p.ringLog2 ≤ 31) : (ringSizeW p).toNat = p.ringSize := by
  rw [ringSizeW, BitVec.toNat_ofNat]
  exact Nat.mod_eq_of_lt (Nat.pow_lt_pow_right (by decide) (by omega))

theorem drainBegin_inv (h : s.Inv) : (drainBegin s).Inv := by
  obtain ⟨⟨hwf, hne⟩, ⟨hlen, -⟩, hothers⟩ := h
  obtain ⟨-, hlog, -⟩ := id hwf
  by_cases hcap : s.cfg.ringSize < (unread s).toNat
  · rw [drainBegin_of_lt hlog hcap]
    exact ⟨⟨hwf, hne⟩, ⟨hlen, (ringSizeW_toNat hlog).le, iff_of_true rfl (ringSizeW_ne_zero hlog)⟩,
      hothers⟩
  · rw [drainBegin_of_le (Nat.not_lt.1 hcap)]
    exact ⟨⟨hwf, hne⟩, ⟨hlen, Nat.not_lt.1 hcap,
      decide_eq_true_iff.trans (not_congr sub_eq_zero.symm)⟩, hothers⟩

theorem drainTake_inv (h : s.Inv) (hact : s.drActive = true) : (drainTake s).Inv := by
  obtain ⟨hcfg, ⟨hlen, hcount, hdrain⟩, hothers⟩ := h
  have hn : s.drN.toNat ≠ 0 := fun h0 => hdrain.1 hact (BitVec.eq_of_toNat_eq h0)
  have hdecr : (s.drN - 1).toNat = s.drN.toNat - 1 :=
    BitVec.toNat_sub_of_le (BitVec.le_def.2 (Nat.one_le_iff_ne_zero.2 hn))
  rw [drainTake_of_active hact]
  refine ⟨hcfg, ⟨hlen, ?_, decide_eq_true_iff.trans (not_congr sub_eq_zero.symm)⟩, hothers⟩
  dsimp only
  omega

/-- A header with an entry starts a package that is not complete: its length is at least 2. -/
theorem decHeader_decInv {b : Byte} {e : HdrEntry} (hwf : s.cfg.wf) (hhdr : isHeader b = true)
    (hent : hdrLookup s.cfg b = some e) : (decHeader b e.kind e.len s).DecInv := by
  have hread : (decHeader b e.kind e.len s).pkgRead 0 = b := by
    show (s.pkgWrite 0 b).pkgRead 0 = b
    rw [pkgRead_pkgWrite, if_pos rfl]
  obtain ⟨hmin, -⟩ := hdrLookup_len hwf hent
  refine ⟨iff_of_false nofun (show (1 : BitVec 4) ≠ 0 by decide), fun _ => ⟨?_, ?_, ?_⟩⟩
  · exact hmin
  · rwa [hread]
  · rw [hread]; exact hent

/-- A payload byte goes behind the header, or completes the package. -/
theorem decPayload_decInv (b : Byte) (h : s.Inv) (hst : s.decState = .assembling) :
    (decPayload b s).DecInv := by
  have hlen := h.pkgLen_le hst
  obtain ⟨-, -, ⟨hidle, hasm⟩, -⟩ := h
  obtain ⟨hidx, hhdr, hent⟩ := hasm hst
  have hlt : s.pkgIdx.toNat < 8 := by omega
  have hsucc := pkgIdx_succ_toNat hlt
  have hpos : s.pkgIdx.toNat ≠ 0 := fun h0 => by
    have : s.decState = .idle := hidle.2 (BitVec.eq_of_toNat_eq h0)
    simp [hst] at this
  by_cases hlast : s.pkgIdx + 1 = s.pkgLen
  · rw [decPayload_of_eq b hlast]
    exact ⟨iff_of_true rfl rfl, nofun⟩
  · rw [decPayload_of_ne b hlast]
    have hread : (s.pkgWrite s.pkgIdx b).pkgRead 0 = s.pkgRead 0 := by
      rw [pkgRead_pkgWrite, if_neg]
      simpa [pkgSlot, Nat.mod_eq_of_lt hlt] using hpos
    have hnz : s.pkgIdx + 1 ≠ 0 := fun h0 =>
      Nat.succ_ne_zero _ (hsucc.symm.trans (congrArg BitVec.toNat h0))
    have hshort : (s.pkgIdx + 1).toNat ≠ s.pkgLen.toNat := fun heq =>
      hlast (BitVec.eq_of_toNat_eq heq)
    refine ⟨iff_of_false ?_ hnz, fun _ => ⟨?_, ?_, ?_⟩⟩
    · simp [hst]
    · show (s.pkgIdx + 1).toNat < s.pkgLen.toNat
      omega
    · exact hread ▸ hhdr
    · exact hread ▸ hent

/-- DECODE writes none of the registers of the other parts of the invariant. -/
theorem State.DecodeFrame.inv {t : State} (hframe : s.DecodeFrame t) (h : s.Inv) (hdec : t.DecInv) :
    t.Inv := by
  obtain ⟨hcfg, hring, -, hmode, htx, hthreads, hmem⟩ := h
  rw [hframe] at hdec ⊢
  exact ⟨hcfg, hring, hdec, hmode, htx, hthreads, hmem⟩

theorem decodeInto_inv (b : Byte) (h : s.Inv) : (decodeInto b s).Inv := by
  refine (decodeInto_decodeFrame b s).inv h ?_
  rcases decodeInto_cases b s with ⟨hst, hd⟩ | ⟨-, -, -, hd⟩ | ⟨e, -, hhdr, hent, hd⟩ | ⟨-, -, hd⟩ <;>
    rw [hd]
  · exact decPayload_decInv b h hst
  · obtain ⟨-, -, hdec, -⟩ := h
    exact hdec
  · obtain ⟨⟨hwf, -⟩, -⟩ := h
    exact decHeader_decInv hwf hhdr hent
  · obtain ⟨-, -, hdec, -⟩ := h
    rw [routeKey_frame]
    exact hdec

theorem execSoftn_inv (h : s.Inv) (hstep : execSoftn s = .next s') : s'.Inv := by
  obtain ⟨-, hact, rfl⟩ := execSoftn_next.1 hstep
  exact decodeInto_inv _ (drainTake_inv h hact)

theorem execSoftb_inv (h : s.Inv) (hstep : execSoftb s = .next s') : s'.Inv := by
  obtain ⟨-, -, -, rfl⟩ := execSoftb_next.1 hstep
  exact drainBegin_inv h

/-! ### The link and the environment keep it (10_state.md section 5) -/

/-- What a supplied TIME can answer (R42; log 7). -/
theorem supplyTime_next {time : Nat} (h : supplyTime time s = .next s') :
    s.fault = none ∧ s' = { s with timeIn := some time } := by
  obtain ⟨hf, ht⟩ := whenRunning_next.1 h
  exact ⟨hf, next_iff.1 ht⟩

/-- What a caller's store can answer (R262; log 11). -/
theorem callerStore_next {a : Nat} {b : Byte} (h : callerStore a b s = .next s') :
    s.fault = none ∧ a < addrSpace s.cfg ∧ s' = { s with mem := Memory.write s.mem a b } := by
  obtain ⟨hf, ht⟩ := whenRunning_next.1 h
  split_ifs at ht with haddr _
  exact ⟨hf, Nat.lt_of_not_le haddr, next_iff.1 ht⟩

theorem supplyTime_inv {time : Nat} (h : s.Inv) (hstep : supplyTime time s = .next s') :
    s'.Inv := by
  obtain ⟨-, rfl⟩ := supplyTime_next hstep
  exact h

theorem callerStore_inv {a : Nat} {b : Byte} (h : s.Inv) (hstep : callerStore a b s = .next s') :
    s'.Inv := by
  obtain ⟨-, haddr, rfl⟩ := callerStore_next hstep
  obtain ⟨hcfg, hring, hdec, hmode, htx, hthreads, hwf, hspace⟩ := h
  refine ⟨hcfg, hring, hdec, hmode, htx, hthreads, Memory.write_wf _ _ _ hwf, fun c hc => ?_⟩
  rcases Memory.mem_write hc with hc | ⟨rfl, -⟩
  · exact hspace c hc
  · exact haddr

/-! ### Every step -/

/-- A stimulus word keeps the invariant. (A byte class by itself need not: its operands are free.) -/
theorem exec_inv {i : Instr} {w : StimWord} (henc : encode i = .word w) (h : s.Inv)
    (hstep : exec i s = .next s') : s'.Inv := by
  cases i with
  | hdrMem | hdrAms | hdrRms | hdrClk | hdrUnknown | hdrJoy0 | hdrJoy1 | keyPress | keyRelease
  | payload => cases henc
  | rx | rxe | evqf =>
    obtain ⟨-, ht⟩ := whenRunning_next.1 hstep
    obtain rfl := next_iff.1 ht
    exact h
  | lrdy =>
    obtain ⟨-, -, rfl⟩ := execLrdy_next.1 hstep
    exact h
  | irqrx => exact execIrqrx_inv h hstep
  | softb => exact execSoftb_inv h hstep
  | softn => exact execSoftn_inv h hstep
  | crw => exact crWrite_inv h hstep
  | crr => exact crRead_inv h hstep
  | reen => exact reenable_inv h hstep
  | reset => exact resetBy_inv h hstep
  | send => exact sendCall_inv h hstep
  | acq => exact acquire_inv h hstep
  | sret => exact sendReturn_inv h hstep
  | txi => exact execTxi_inv h hstep
  | psend => exact sendPolling_inv h hstep
  | pstep => exact pollStep_inv h hstep

theorem perform_inv {a : Action} (h : s.Inv) (hstep : perform a s = .next s') : s'.Inv := by
  cases a with
  | word => cases hstep
  | crWrite => exact crWrite_inv h hstep
  | crRead => exact crRead_inv h hstep
  | reenable => exact reenable_inv h hstep
  | reset => exact resetBy_inv h hstep
  | send => exact sendCall_inv h hstep
  | acquire => exact acquire_inv h hstep
  | sendReturn => exact sendReturn_inv h hstep
  | sendPolling => exact sendPolling_inv h hstep
  | pollStep => exact pollStep_inv h hstep
  | supplyTime => exact supplyTime_inv h hstep
  | callerStore => exact callerStore_inv h hstep
  | bell | consoleReadKey | registerAccess => exact absurd hstep refuseRequest_ne_next

/-- Settles O57: an operation keeps each part of the invariant, and the invariant does not read the
schedule; the words that the decoder reads are no byte classes. -/
theorem everyStepKeepsTheInvariant : Obligations.EveryStepKeepsTheInvariant := by
  intro s t h hstep
  obtain ⟨-, ⟨w, rest, i, u, -, hdec, hexec, rfl⟩ | ⟨a, rest, u, -, hperf, rfl⟩⟩ := step_next hstep
  · have hu : u.Inv := exec_inv (encode_of_decodeWord hdec) h hexec
    exact hu
  · have hu : u.Inv := perform_inv h hperf
    exact hu

end

/-! ### The power-on state has it -/

theorem powerOn_inv {p : Params} {n : Nat} (txrdy evqFull : Bool) (hwf : p.wf) (hn : 1 ≤ n) :
    (State.powerOn p n txrdy evqFull).Inv := by
  have hidle : ∀ th ∈ (State.powerOn p n txrdy evqFull).threads,
      th.state = .idle ∧ th.base = 0 := by
    intro th hth
    obtain rfl := mem_powerOn_threads hth
    exact ⟨rfl, rfl⟩
  refine ⟨⟨hwf, ?threads⟩, ⟨List.length_replicate, Nat.zero_le _, iff_of_false nofun (absurd rfl)⟩,
    ⟨iff_of_true rfl rfl, nofun⟩, (show (0 : BitVec 2) ≠ 3 by decide),
    ⟨iff_of_false nofun (absurd rfl), addrSpace_pos p, nofun⟩,
    ⟨fun th hth => ?call,
      pollAlone_iff.2 fun u v a b _ _ hb => (hidle b (List.mem_of_getElem? hb)).1⟩,
    ⟨List.Pairwise.nil, nofun⟩, nofun⟩
  case threads => exact List.ne_nil_of_length_pos (hn.trans_eq List.length_replicate.symm)
  case call =>
    obtain ⟨hst, hbase⟩ := hidle th hth
    exact callInv_of_idle hst (hbase ▸ addrSpace_pos p)

/-- Settles O56: no call, no package and no transmission is in progress, and the ring has RING_SIZE
slots; the parameters of State.reset are within their bounds. -/
theorem powerOnStateSatisfiesTheInvariant : Obligations.PowerOnStateSatisfiesTheInvariant :=
  ⟨fun _ _ txrdy evqFull => powerOn_inv txrdy evqFull,
    powerOn_inv false false (show resetParams.wf by decide) (by decide)⟩

end Sys2Proof.Machine
end

section
/-! Delivery through the ring (41_ring.md section 3): a run of received bytes, then the snapshot. -/

namespace Sys2Proof.Machine

theorem execAll_append {is js : List Instr} {s t : State} (h : execAll is s = .next t) :
    execAll (is ++ js) s = execAll js t := by
  induction is generalizing s with
  | nil => rw [next_iff.1 h, List.nil_append]
  | cons i is ih =>
    cases hi : exec i s with
    | next u =>
      rw [execAll_cons hi] at h
      rw [List.cons_append, execAll_cons hi, ih h]
    | fault r => simp [execAll, hi] at h
    | refused r => simp [execAll, hi] at h

/-! ### The slots of successive indices (R61, R110) -/

/-- The wrap modulo 2^32 is a wrap modulo RING_SIZE too. -/
theorem ringSlot_add_ofNat {p : Params} (hlog : p.ringLog2 ≤ 31) (i : Count) (k : Nat) :
    ringSlot p (i + BitVec.ofNat 32 k) = (i.toNat + k) % p.ringSize := by
  have hdvd : p.ringSize ∣ 2 ^ 32 := Nat.pow_dvd_pow 2 (by omega)
  rw [ringSlot, BitVec.toNat_add, BitVec.toNat_ofNat, Nat.add_mod_mod, Nat.mod_mod_of_dvd _ hdvd]

theorem ringSlot_lt (p : Params) (i : Count) : ringSlot p i < p.ringSize :=
  Nat.mod_lt _ (Nat.two_pow_pos _)

/-- Indices fewer than RING_SIZE apart have different slots. -/
theorem ringSlot_ne {p : Params} (hlog : p.ringLog2 ≤ 31) (i : Count) {k m : Nat} (hlt : k < m)
    (hnear : m < k + p.ringSize) :
    ringSlot p (i + BitVec.ofNat 32 m) ≠ ringSlot p (i + BitVec.ofNat 32 k) := by
  rw [ringSlot_add_ofNat hlog, ringSlot_add_ofNat hlog]
  intro heq
  have hmod : k ≡ m [MOD p.ringSize] := Nat.ModEq.add_left_cancel' i.toNat heq.symm
  have hdvd : p.ringSize ∣ m - k := (Nat.modEq_iff_dvd' hlt.le).1 hmod
  have hle := Nat.le_of_dvd (by omega) hdvd
  omega

/-! ### A run of good bytes (R100) -/

/-- Every byte of `xs` that has not been overwritten since is in the slot of its index, when the bytes
have been stored from index `i` on. -/
def HoldsNewest (p : Params) (i : Count) (xs ring : List Byte) : Prop :=
  ∀ (k : Nat) (hk : k < xs.length), xs.length ≤ k + p.ringSize →
    ring[ringSlot p (i + BitVec.ofNat 32 k)]? = some xs[k]

/-- One more byte overwrites the slot of the byte RING_SIZE before it and no later one's. -/
theorem HoldsNewest.push {p : Params} {i : Count} {xs ring : List Byte} (hlog : p.ringLog2 ≤ 31)
    (hlen : ring.length = p.ringSize) (h : HoldsNewest p i xs ring) (x : Byte) :
    HoldsNewest p i (xs ++ [x])
      (ring.set (ringSlot p (i + BitVec.ofNat 32 xs.length)) x) := by
  intro k hk hnew
  rw [List.length_append, List.length_singleton] at hk hnew
  rcases Nat.lt_succ_iff_lt_or_eq.1 hk with hold | rfl
  · rw [List.getElem?_set_ne (ringSlot_ne hlog i hold (by omega)), List.getElem_append_left hold]
    exact h k hold (by omega)
  · rw [List.getElem?_set_self (hlen ▸ ringSlot_lt p _), List.getElem_concat_length rfl]

/-- The state after the good bytes `xs` have been taken from LINK_RXQ. -/
abbrev State.received (xs : List Byte) (rest : List (Byte × Bool)) (ring : List Byte) (s : State) :
    State :=
  { s with
    put := s.put + BitVec.ofNat 32 xs.length, ring := ring
    softPend := s.softPend || !xs.isEmpty, linkRxq := rest }

/-- IRQRX for each of the good bytes at the head of LINK_RXQ. Induction on the bytes from the last one:
each push adds to what the pushes before it have stored. -/
theorem execAll_irqrx {s : State} (hwf : s.cfg.wf) (hlen : s.ring.length = s.cfg.ringSize)
    (hf : s.fault = none) (hirq : s.irqEn = true) (xs : List Byte) (rest : List (Byte × Bool))
    (hq : s.linkRxq = xs.map (fun b => (b, false)) ++ rest) :
    ∃ ring, execAll (xs.map fun _ => .irqrx) s = .next (s.received xs rest ring) ∧
      ring.length = s.cfg.ringSize ∧ HoldsNewest s.cfg s.put xs ring := by
  obtain ⟨-, hlog, -⟩ := id hwf
  induction xs using List.reverseRecOn generalizing rest with
  | nil =>
    refine ⟨s.ring, ?_, hlen, nofun⟩
    rw [List.map_nil, List.nil_append] at hq
    simp [execAll, State.received, ← hq]
  | append_singleton xs x ih =>
    rw [List.map_append, List.append_assoc] at hq
    obtain ⟨ring, hrun, hring, hnew⟩ := ih ((x, false) :: rest) hq
    refine ⟨ring.set (ringSlot s.cfg (s.put + BitVec.ofNat 32 xs.length)) x, ?_,
      List.length_set.trans hring, hnew.push hlog hring x⟩
    have hpush : exec .irqrx (s.received xs ((x, false) :: rest) ring) =
        .next (rxPush x rest (s.received xs ((x, false) :: rest) ring)) :=
      exec_irqrx (s := s.received xs ((x, false) :: rest) ring) hf hirq rfl
    rw [List.map_append, execAll_append hrun, List.map_singleton, execAll_cons hpush, execAll]
    simp [rxPush, State.ringWrite, State.received, BitVec.ofNat_add, add_assoc]

/-! ### The snapshot after a run (R105, R107, R108) -/

section
variable {s : State} {xs : List Byte} {ring : List Byte}

/-- From an empty ring the unread bytes are those received. -/
theorem unread_received (hempty : s.put = s.get) (hlt : xs.length < 2 ^ 32) :
    (unread (s.received xs [] ring)).toNat = xs.length := by
  have hcount : unread (s.received xs [] ring) = BitVec.ofNat 32 xs.length := by
    show s.put + BitVec.ofNat 32 xs.length - s.get = _
    rw [hempty, add_sub_cancel_left]
  rw [hcount, BitVec.toNat_ofNat, Nat.mod_eq_of_lt hlt]

/-- A run of good bytes into an empty ring and the SOFTB after it. -/
theorem execAll_irqrx_softb (hwf : s.cfg.wf) (hlen : s.ring.length = s.cfg.ringSize)
    (hf : s.fault = none) (hirq : s.irqEn = true) (hact : s.drActive = false)
    (hq : s.linkRxq = xs.map (fun b => (b, false))) (hne : xs ≠ []) :
    ∃ ring, execAll (xs.map (fun _ => .irqrx) ++ [.softb]) s =
        .next (drainBegin (s.received xs [] ring)) ∧ HoldsNewest s.cfg s.put xs ring := by
  obtain ⟨ring, hrun, -, hnew⟩ :=
    execAll_irqrx hwf hlen hf hirq xs [] (hq.trans (List.append_nil _).symm)
  refine ⟨ring, ?_, hnew⟩
  have hsoftb : exec .softb (s.received xs [] ring) = .next (drainBegin (s.received xs [] ring)) :=
    execSoftb_next.2 ⟨hf, hact, by simpa using .inr hne, rfl⟩
  rw [execAll_append hrun, execAll_cons hsoftb, execAll]

end

/-- Settles O17: no byte is overwritten, and the drain counts them all. -/
theorem drainFindsExactlyThePushedBytes : Obligations.DrainFindsExactlyThePushedBytes := by
  intro s xs hwf hlen hf hirq hact hempty hq hne hfit
  obtain ⟨-, hlog, -⟩ := id hwf
  have hsize : s.cfg.ringSize < 2 ^ 32 := Nat.pow_lt_pow_right (by decide) (by omega)
  obtain ⟨ring, hrun, hnew⟩ := execAll_irqrx_softb hwf hlen hf hirq hact hq hne
  have hcount := unread_received (ring := ring) hempty (hfit.trans_lt hsize)
  have hsome : (s.received xs [] ring).put ≠ s.get := fun heq => by
    have hzero : unread (s.received xs [] ring) = 0 := sub_eq_zero.2 heq
    rw [hzero] at hcount
    exact hne (List.length_eq_zero_iff.1 hcount.symm)
  rw [drainBegin_of_le (hcount.trans_le hfit)] at hrun
  refine ⟨_, hrun, rfl, decide_eq_true hsome, hcount, rfl, fun k hk => ?_⟩
  have hread := hnew k hk (by omega)
  rw [hempty] at hread
  simp [State.ringRead, List.getD_eq_getElem?_getD, hread]

/-- Settles O18: the drain starts RING_SIZE bytes before PUT, where the newest bytes begin. -/
theorem overflowKeepsTheNewestBytes : Obligations.OverflowKeepsTheNewestBytes := by
  intro s xs hwf hlen hf hirq hact hempty hq hover hlt
  obtain ⟨-, hlog, -⟩ := id hwf
  have hne : xs ≠ [] := List.ne_nil_of_length_pos (by omega)
  obtain ⟨ring, hrun, hnew⟩ := execAll_irqrx_softb hwf hlen hf hirq hact hq hne
  have hcount := unread_received (ring := ring) hempty hlt
  have hget : s.put + BitVec.ofNat 32 xs.length - ringSizeW s.cfg =
      s.get + BitVec.ofNat 32 (xs.length - s.cfg.ringSize) := by
    rw [hempty, add_sub_assoc, ringSizeW, BitVec.ofNat_sub_ofNat_of_le _ _ (hover.trans hlt) hover.le]
  rw [drainBegin_of_lt (s := s.received xs [] ring) hlog (hover.trans_eq hcount.symm)] at hrun
  refine ⟨_, hrun, hget, rfl, ringSizeW_toNat hlog, fun k hk => ?_⟩
  have hread := hnew (xs.length - s.cfg.ringSize + k) (by omega) (by omega)
  rw [hempty, BitVec.ofNat_add, ← add_assoc, ← hget] at hread
  rw [List.getElem?_eq_getElem (by omega)]
  simp [State.ringRead, List.getD_eq_getElem?_getD, hread]

end Sys2Proof.Machine
end

section
/-! What a step puts on the link and appends to the history (10_state.md R10, R41, 44_output.md R184). -/

namespace Sys2Proof.Machine

/-! ### Steps that send a byte and steps that do not -/

/-- The step appends at most two transactions, none of them LINK_TX, and does not clear TXRDY. -/
def State.Quiet (s t : State) : Prop :=
  ∃ xs, t.history = s.history ++ xs ∧ xs.length ≤ 2 ∧ (∀ b, Txn.linkTx b ∉ xs) ∧
    (s.txrdy = true → t.txrdy = true)

/-- The step finds the link ready and hands it one byte, with at most one transaction after it. -/
def State.Sends (s t : State) : Prop :=
  s.txrdy = true ∧ t.txrdy = false ∧
    ∃ b xs, t.history = s.history ++ .linkTx b :: xs ∧ xs.length ≤ 1

section
variable {s t : State}

theorem State.Quiet.nothing (hhist : t.history = s.history) (hrdy : s.txrdy = true → t.txrdy = true) :
    s.Quiet t :=
  ⟨[], by rw [hhist, List.append_nil], Nat.zero_le _, fun _ => List.not_mem_nil, hrdy⟩

theorem State.Quiet.one {x : Txn} (hhist : t.history = s.history ++ [x]) (hx : ∀ b, x ≠ .linkTx b)
    (hrdy : s.txrdy = true → t.txrdy = true) : s.Quiet t :=
  ⟨[x], hhist, Nat.le_succ 1, fun b hb => hx b (List.mem_singleton.1 hb).symm, hrdy⟩

theorem State.Quiet.not_linkTx (h : s.Quiet t) (b : Byte) : .linkTx b ∉ emitted s t := by
  obtain ⟨xs, hhist, -, hno, -⟩ := h
  rw [emitted_eq hhist]
  exact hno b

theorem State.Sends.linkTx (h : s.Sends t) : ∃ b, .linkTx b ∈ emitted s t := by
  obtain ⟨-, -, b, xs, hhist, -⟩ := h
  exact ⟨b, by rw [emitted_eq hhist]; exact List.mem_cons_self⟩

/-! ### The receiver's steps (41_ring.md to 43_dispatch.md) -/

theorem routeKey_quiet (b : Byte) (s : State) : s.Quiet (routeKey b s) := by
  rcases routeKey_cases b s with ⟨-, -, h⟩ | ⟨-, -, h⟩ | ⟨-, -, -, h⟩ | ⟨-, -, -, h⟩ |
    ⟨-, -, -, -, h⟩ | ⟨-, -, -, -, h⟩ <;> rw [h]
  · exact .one rfl nofun id
  · exact .one rfl nofun id
  · exact .one rfl nofun id
  · exact .nothing rfl id
  · split <;> exact .nothing rfl id
  · exact .one rfl nofun id

theorem decPayload_quiet (b : Byte) (s : State) : s.Quiet (decPayload b s) := by
  by_cases hlast : s.pkgIdx + 1 = s.pkgLen
  · rw [decPayload_of_eq b hlast]
    unfold dispatched
    split
    · exact .one rfl nofun id
    · exact .nothing (List.append_nil _) id
  · rw [decPayload_of_ne b hlast]
    exact .nothing rfl id

theorem decodeInto_quiet (b : Byte) (s : State) : s.Quiet (decodeInto b s) := by
  rcases decodeInto_cases b s with ⟨-, h⟩ | ⟨-, -, -, h⟩ | ⟨e, -, -, -, h⟩ | ⟨-, -, h⟩ <;> rw [h]
  · exact decPayload_quiet b s
  · exact .one rfl nofun id
  · exact .nothing rfl id
  · exact routeKey_quiet b s

theorem drainBegin_quiet (s : State) : s.Quiet (drainBegin s) := by
  unfold drainBegin
  dsimp only
  split <;> exact .nothing rfl id

theorem softWord_quiet {i : Instr} (hi : isSoftWord i = true) (h : exec i s = .next t) :
    s.Quiet t := by
  cases i with
  | softb =>
    obtain ⟨-, -, -, rfl⟩ := execSoftb_next.1 h
    exact drainBegin_quiet s
  | softn =>
    obtain ⟨-, -, rfl⟩ := execSoftn_next.1 h
    exact decodeInto_quiet _ (drainTake s)
  | payload b =>
    obtain ⟨-, -, rfl⟩ := execPayload_next.1 h
    exact decPayload_quiet b s
  | hdrUnknown b =>
    obtain ⟨-, -, rfl⟩ := inIdle_next.1 h
    exact .one rfl nofun id
  | keyPress sc | keyRelease sc =>
    obtain ⟨-, -, rfl⟩ := inIdle_next.1 h
    exact routeKey_quiet _ s
  | hdrMem b len | hdrAms b len | hdrRms b len | hdrClk b len | hdrJoy0 b len | hdrJoy1 b len =>
    obtain ⟨-, -, rfl⟩ := inIdle_next.1 h
    exact .nothing rfl id
  | _ => cases hi

/-! ### The callers' steps (44_output.md, 45_control.md) -/

theorem crWrite_quiet {n r v : Nat} (h : crWrite n r v s = .next t) : s.Quiet t := by
  obtain ⟨th, -, -, -, ⟨c, rfl⟩ | ⟨-, -, rfl⟩ | ⟨-, -, rfl⟩ | ⟨-, -, hirq⟩⟩ := crWrite_next h
  · exact .nothing rfl id
  · exact .nothing rfl id
  · exact .nothing rfl id
  · obtain ⟨c, rfl⟩ | ⟨-, -, rfl⟩ := irqEnWrite_next hirq <;> exact .nothing rfl id

theorem crRead_quiet {n r : Nat} (h : crRead n r s = .next t) : s.Quiet t := by
  obtain ⟨th, -, -, -, ⟨c, rfl⟩ | ⟨v, -, rfl⟩⟩ := crRead_next h
  · exact .nothing rfl id
  · exact .one rfl nofun id

theorem reenable_quiet {n : Nat} (h : reenable n s = .next t) : s.Quiet t := by
  rw [reenable_eq h]
  exact .nothing rfl id

theorem resetBy_quiet {n : Nat} (h : resetBy n s = .next t) : s.Quiet t := by
  obtain ⟨th, -, -, -, ⟨c, rfl⟩ | ⟨-, rfl⟩⟩ := resetBy_next h <;> exact .nothing rfl id

theorem sendCall_quiet {n base : Nat} {len : Count} (h : sendCall n base len s = .next t) :
    s.Quiet t := by
  obtain ⟨th, -, -, -, ⟨c, rfl⟩ | ⟨-, -, -, rfl⟩⟩ := sendCall_next h <;> exact .nothing rfl id

theorem sendPolling_quiet {n base : Nat} {len : Count} (h : sendPolling n base len s = .next t) :
    s.Quiet t := by
  obtain ⟨th, -, -, -, ⟨c, rfl⟩ | ⟨-, -, -, -, -, rfl⟩⟩ := sendPolling_next h <;>
    exact .nothing rfl id

theorem sendReturn_quiet {n : Nat} (h : sendReturn n s = .next t) : s.Quiet t := by
  obtain ⟨th, -, -, -, -, rfl⟩ := sendReturn_next.1 h
  exact .one rfl nofun id

/-- A byte goes to the link at once, if the link is ready (R173). -/
theorem acquire_quiet_or_sends {n : Nat} (h : acquire n s = .next t) : s.Quiet t ∨ s.Sends t := by
  obtain ⟨th, -, -, -, -, rfl⟩ := acquire_next.1 h
  unfold txFirst
  split
  · rename_i hrdy
    exact .inr ⟨hrdy, rfl, _, [], rfl, Nat.zero_le _⟩
  · exact .inl (.nothing rfl id)

theorem execTxi_sends (h : execTxi s = .next t) : s.Sends t := by
  obtain ⟨-, -, hrdy, -, rfl⟩ := execTxi_next.1 h
  exact ⟨hrdy, rfl, _, [], rfl, Nat.zero_le _⟩

theorem pollWrite_sends (n : Nat) (th : Thread) (hrdy : s.txrdy = true) :
    s.Sends (pollWrite n th s) := by
  by_cases hlast : th.idx + 1 = th.len
  · rw [pollWrite_of_eq n hlast]
    exact ⟨hrdy, rfl, _, [_], rfl, le_rfl⟩
  · rw [pollWrite_of_ne n hlast]
    exact ⟨hrdy, rfl, _, [], rfl, Nat.zero_le _⟩

theorem pollFail_quiet (n : Nat) (th : Thread) (s : State) : s.Quiet (pollFail n th s) := by
  unfold pollFail
  split
  · exact .one rfl nofun id
  · exact .nothing rfl id

theorem pollStep_quiet_or_sends {n : Nat} (h : pollStep n s = .next t) : s.Quiet t ∨ s.Sends t := by
  obtain ⟨th, -, -, -, rfl⟩ := pollStep_next.1 h
  split
  · exact .inr (pollWrite_sends n th ‹_›)
  · exact .inl (pollFail_quiet n th s)

/-! ### Every step (R5, R10, R41) -/

/-- Only SEND_ACQUIRE, TX_STEP and POLL_STEP hand a byte to the link. -/
theorem exec_quiet_or_sends {i : Instr} (h : exec i s = .next t) :
    s.Quiet t ∨ (s.Sends t ∧ (i = .txi ∨ ∃ n, i = .acq n ∨ i = .pstep n)) := by
  cases i with
  | acq n => exact (acquire_quiet_or_sends h).imp_right fun hs => ⟨hs, .inr ⟨n, .inl rfl⟩⟩
  | pstep n => exact (pollStep_quiet_or_sends h).imp_right fun hs => ⟨hs, .inr ⟨n, .inr rfl⟩⟩
  | txi => exact .inr ⟨execTxi_sends h, .inl rfl⟩
  | rx | rxe | evqf =>
    obtain ⟨-, ht⟩ := whenRunning_next.1 h
    obtain rfl := next_iff.1 ht
    exact .inl (.nothing rfl id)
  | lrdy =>
    obtain ⟨-, -, rfl⟩ := execLrdy_next.1 h
    exact .inl (.nothing rfl fun _ => rfl)
  | irqrx => rw [execIrqrx_frame h]; exact .inl (.nothing rfl id)
  | crw => exact .inl (crWrite_quiet h)
  | crr => exact .inl (crRead_quiet h)
  | reen => exact .inl (reenable_quiet h)
  | reset => exact .inl (resetBy_quiet h)
  | send => exact .inl (sendCall_quiet h)
  | psend => exact .inl (sendPolling_quiet h)
  | sret => exact .inl (sendReturn_quiet h)
  | _ => exact .inl (softWord_quiet rfl h)

/-- The same of the schedule entries that are no words (log 15). -/
theorem perform_quiet_or_sends {a : Action} (h : perform a s = .next t) :
    s.Quiet t ∨ (s.Sends t ∧ ∃ n, a = .acquire n ∨ a = .pollStep n) := by
  cases a with
  | acquire n => exact (acquire_quiet_or_sends h).imp_right fun hs => ⟨hs, n, .inl rfl⟩
  | pollStep n => exact (pollStep_quiet_or_sends h).imp_right fun hs => ⟨hs, n, .inr rfl⟩
  | word => cases h
  | crWrite => exact .inl (crWrite_quiet h)
  | crRead => exact .inl (crRead_quiet h)
  | reenable => exact .inl (reenable_quiet h)
  | reset => exact .inl (resetBy_quiet h)
  | send => exact .inl (sendCall_quiet h)
  | sendPolling => exact .inl (sendPolling_quiet h)
  | sendReturn => exact .inl (sendReturn_quiet h)
  | supplyTime =>
    obtain ⟨-, rfl⟩ := supplyTime_next h
    exact .inl (.nothing rfl id)
  | callerStore =>
    obtain ⟨-, -, rfl⟩ := callerStore_next h
    exact .inl (.nothing rfl id)
  | bell | consoleReadKey | registerAccess => exact absurd h refuseRequest_ne_next

/-- At most two transactions a step: a byte and the result after it. -/
theorem history_of_quiet_or_sends (h : s.Quiet t ∨ s.Sends t) :
    ∃ l, t.history = s.history ++ l ∧ l.length ≤ 2 := by
  obtain ⟨xs, hhist, hlen, -⟩ | ⟨-, -, b, xs, hhist, hlen⟩ := h
  · exact ⟨xs, hhist, hlen⟩
  · exact ⟨_, hhist, Nat.succ_le_succ hlen⟩

end

/-- Settles O48: a quiet step emits no LINK_TX and keeps TXRDY = 1, a sending one emits and clears. -/
theorem linkTxNeedsAndClearsTxrdy : Obligations.LinkTxNeedsAndClearsTxrdy := by
  intro s t h
  have hstep : s.Quiet t ∨ s.Sends t := by
    obtain ⟨i, hi⟩ | ⟨a, ha⟩ := h
    · exact (exec_quiet_or_sends hi).imp_right And.left
    · exact (perform_quiet_or_sends ha).imp_right And.left
  rcases hstep with hquiet | hsends
  · refine ⟨fun ⟨b, hb⟩ => absurd hb (hquiet.not_linkTx b), fun hrdy hclear => ?_⟩
    obtain ⟨-, -, -, -, hkeep⟩ := hquiet
    simp [hkeep hrdy] at hclear
  · exact ⟨fun _ => ⟨hsends.1, hsends.2.1⟩, fun _ _ => hsends.linkTx⟩

/-- Settles O55: taking the schedule entry leaves the history. -/
theorem historyOnlyGrows : Obligations.HistoryOnlyGrows := by
  intro s t hstep
  obtain ⟨-, ⟨w, rest, i, u, -, -, hexec, rfl⟩ | ⟨a, rest, u, -, hperf, rfl⟩⟩ := step_next hstep
  · exact history_of_quiet_or_sends ((exec_quiet_or_sends hexec).imp_right And.left)
  · exact history_of_quiet_or_sends ((perform_quiet_or_sends hperf).imp_right And.left)

/-! ### The polled call alone (R184, R208) -/

section
variable {s t : State} {n u : Nat} {th : Thread}

theorem State.Inv.acquire_ne_next (h : s.Inv) (hth : s.ThreadAt u .poll th) :
    acquire n s ≠ .next t := fun hstep => by
  obtain ⟨w, -, hget, hst, -⟩ := acquire_next.1 hstep
  obtain ⟨-, -, hacq, -⟩ := h.callInv hget
  have hirq := hacq hst
  simp [(h.poll_quiet hth).1] at hirq

theorem State.Inv.execTxi_ne_next (h : s.Inv) (hth : s.ThreadAt u .poll th) :
    execTxi s ≠ .next t := fun hstep => by
  obtain ⟨-, hirq, -⟩ := execTxi_next.1 hstep
  simp [(h.poll_quiet hth).1] at hirq

theorem State.Inv.eq_of_pollStep_next (h : s.Inv) (hth : s.ThreadAt u .poll th)
    (hstep : pollStep n s = .next t) : n = u := by
  obtain ⟨w, -, hget, hst, -⟩ := pollStep_next.1 hstep
  by_contra hne
  simp [h.pollAlone hth (Ne.symm hne) hget] at hst

end

/-- Settles O47: interrupts are off, so no thread is in ACQ and TX_STEP is not enabled, and no other
thread is in POLL. -/
theorem polledSendIsAloneOnTheLink : Obligations.PolledSendIsAloneOnTheLink := by
  intro s t u th b h hth hb
  refine ⟨fun i hstep => ?word, fun a hstep => ?entry⟩
  case word =>
    rcases exec_quiet_or_sends hstep with hquiet | ⟨-, rfl | ⟨n, rfl | rfl⟩⟩
    · exact absurd hb (hquiet.not_linkTx b)
    · exact absurd hstep (h.execTxi_ne_next hth)
    · exact absurd hstep (h.acquire_ne_next hth)
    · exact ⟨n, rfl, h.eq_of_pollStep_next hth hstep⟩
  case entry =>
    rcases perform_quiet_or_sends hstep with hquiet | ⟨-, n, rfl | rfl⟩
    · exact absurd hb (hquiet.not_linkTx b)
    · exact absurd hstep (h.acquire_ne_next hth)
    · rw [h.eq_of_pollStep_next hth hstep]

end Sys2Proof.Machine
end

section
/-! The bytes of a `send` on the link (44_output.md R175, R178): each TX_STEP's byte, and a whole call. -/

namespace Sys2Proof.Machine

/-! ### One TX_STEP -/

/-- Under the invariant a TX_STEP sends the byte of a waiting thread's buffer that TX_CURSOR is at. -/
theorem execTxi_sends_next_byte {s t : State} (h : s.Inv) (hstep : execTxi s = .next t) :
    ∃ (th : Thread) (k : Nat), th ∈ s.threads ∧ th.state = .wait ∧ k < th.len.toNat ∧
      s.txCursor = th.base + k ∧ s.txRem.toNat = th.len.toNat - k ∧
      emitted s t = [.linkTx (Memory.read s.mem (th.base + k))] := by
  obtain ⟨-, -, -, hb, rfl⟩ := execTxi_next.1 hstep
  obtain ⟨-, -, -, -, ⟨hbusy, hcur, htx⟩, -⟩ := h
  obtain ⟨-, ⟨th, hmem, hst, hle, hrest⟩, -⟩ := htx hb
  have hrem : s.txRem.toNat ≠ 0 := fun h0 => hbusy.1 hb (BitVec.eq_of_toNat_eq h0)
  have hcursor : s.txCursor = th.base + (s.txCursor - th.base) := by omega
  refine ⟨th, s.txCursor - th.base, hmem, hst, by omega, hcursor, by omega, ?_⟩
  rw [txByte_of_busy hb hcur, ← hcursor]
  exact emitted_eq rfl

/-! ### A whole call -/

/-- The bytes of the first j places of thread `th`'s buffer, on the link in address order. -/
def bufferBytes (mem : List Host.Cell) (th : Thread) (j : Nat) : List Txn :=
  (List.range j).map fun k => .linkTx (Memory.read mem (th.base + k))

theorem bufferBytes_succ (mem : List Host.Cell) (th : Thread) (j : Nat) :
    bufferBytes mem th (j + 1) =
      bufferBytes mem th j ++ [.linkTx (Memory.read mem (th.base + j))] := by
  rw [bufferBytes, List.range_succ, List.map_append]
  rfl

/-- The state after j bytes of thread t's call have gone out, the last one just now (R172 to R177). -/
def State.sentBytes (t : Nat) (th : Thread) (j : Nat) (s : State) : State :=
  { s with
    txBusy := decide (th.len ≠ BitVec.ofNat 32 j)
    txCursor := (th.base + j) % 2 ^ s.cfg.addrW
    txRem := th.len - BitVec.ofNat 32 j
    threads := s.threads.set t { th with state := .wait }
    history := s.history ++ bufferBytes s.mem th j
    txrdy := false }

section
variable {s : State} {th : Thread} {j : Nat}

theorem len_ne_ofNat (hj : j < th.len.toNat) : th.len ≠ BitVec.ofNat 32 j := fun heq => by
  rw [heq, BitVec.toNat_ofNat] at hj
  exact hj.not_ge (Nat.mod_le _ _)

/-- TX_STEP after LINK_TX_DONE sends the byte at place j. -/
theorem txByte_sentBytes (t : Nat) (hj : j < th.len.toNat)
    (htop : th.base + th.len.toNat ≤ addrSpace s.cfg) :
    txByte { s.sentBytes t th j with txrdy := true } = s.sentBytes t th (j + 1) := by
  have hlt : th.base + j < 2 ^ s.cfg.addrW := lt_of_lt_of_le (by omega) htop
  have hlast : th.len - BitVec.ofNat 32 j = 1 ↔ th.len = BitVec.ofNat 32 (j + 1) := by
    rw [sub_eq_iff_eq_add', BitVec.ofNat_add]
    rfl
  have hrem : th.len - BitVec.ofNat 32 j - 1 = th.len - BitVec.ofNat 32 (j + 1) := by
    rw [sub_sub, BitVec.ofNat_add]
    rfl
  rw [txByte_of_busy (decide_eq_true (len_ne_ofNat hj)) (Nat.mod_lt _ (addrSpace_pos _))]
  simp only [State.sentBytes, bufferBytes_succ, ← List.append_assoc, Nat.mod_eq_of_lt hlt, hrem,
    ne_eq, hlast, add_assoc]

/-- The two steps for each further byte: LINK_TX_DONE, then TX_STEP. -/
theorem execAll_lrdy_txi (t : Nat) (hf : s.fault = none) (hirq : s.irqEn = true)
    (htop : th.base + th.len.toNat ≤ addrSpace s.cfg) (m : Nat) (hj : j + m ≤ th.len.toNat) :
    execAll (List.replicate m [.lrdy, .txi]).flatten (s.sentBytes t th j) =
      .next (s.sentBytes t th (j + m)) := by
  induction m generalizing j with
  | zero => rfl
  | succ m ih =>
    have hlt : j < th.len.toNat := by omega
    have hlrdy : exec .lrdy (s.sentBytes t th j) = .next { s.sentBytes t th j with txrdy := true } :=
      execLrdy_next.2 ⟨hf, rfl, rfl⟩
    have htxi : exec .txi { s.sentBytes t th j with txrdy := true } =
        .next (s.sentBytes t th (j + 1)) :=
      execTxi_next.2 ⟨hf, hirq, rfl, decide_eq_true (len_ne_ofNat hlt),
        (txByte_sentBytes t hlt htop).symm⟩
    rw [List.replicate_succ, List.flatten_cons, List.cons_append, execAll_cons hlrdy,
      List.singleton_append, execAll_cons htxi, ih (by omega), Nat.add_right_comm, Nat.add_assoc]

/-- SEND_ACQUIRE with the link ready sends the first byte. -/
theorem exec_acq_sentBytes {t : BitVec 4} (h : s.Inv) (hf : s.fault = none)
    (hth : s.ThreadAt t.toNat .acq th) (hb : s.txBusy = false) (hrdy : s.txrdy = true) :
    exec (.acq t) s = .next (s.sentBytes t.toNat th 1) := by
  obtain ⟨-, hready⟩ := acquireStartsTheTransmission s t th h hf hth hb
  exact hready hrdy

/-- The last byte ends the transmission (R177). -/
theorem txBusy_sentBytes_all (t : Nat) : (s.sentBytes t th th.len.toNat).txBusy = false := by
  rw [State.sentBytes, BitVec.ofNat_toNat, BitVec.setWidth_eq]
  exact decide_eq_false (not_not_intro rfl)

/-- SEND_RETURN after the last byte. -/
theorem exec_sret_sentBytes {t : BitVec 4} (hf : s.fault = none)
    (hget : s.threads[t.toNat]? = some th) :
    exec (.sret t) (s.sentBytes t.toNat th th.len.toNat) =
      .next { s.sentBytes t.toNat th th.len.toNat with
        history := s.history ++ bufferBytes s.mem th th.len.toNat ++ [.ret t.toNat .send .ok]
        threads := s.threads.set t.toNat { th with state := .idle } } := by
  have hlt : t.toNat < s.threads.length := (List.getElem?_eq_some_iff.1 hget).1
  have hth : (s.sentBytes t.toNat th th.len.toNat).ThreadAt t.toNat .wait
      { th with state := .wait } := ⟨List.getElem?_set_self hlt, rfl⟩
  rw [sretReturnsOk (s.sentBytes t.toNat th th.len.toNat) t _ hf hth (txBusy_sentBytes_all t.toNat)]
  simp [State.sentBytes]

end

/-- Settles O60: the invariant places TX_CURSOR in a waiting thread's buffer; a whole call is the first
byte at SEND_ACQUIRE, the loop over the others and SEND_RETURN. -/
theorem sendEmitsItsBufferInOrder : Obligations.SendEmitsItsBufferInOrder := by
  refine ⟨fun s t h hstep => execTxi_sends_next_byte h hstep, fun s t th h hf hth hb hrdy => ?_⟩
  obtain ⟨-, hbuf, hacq, -⟩ := h.callInv hth.1
  obtain ⟨hlen, htop⟩ := hbuf (by simp [hth.2])
  have hpos : th.len.toNat ≠ 0 := fun h0 => hlen (BitVec.eq_of_toNat_eq h0)
  have hlt : t.toNat < s.threads.length := (List.getElem?_eq_some_iff.1 hth.1).1
  have hloop := execAll_lrdy_txi (j := 1) t.toNat hf (hacq hth.2) htop (th.len.toNat - 1) (by omega)
  rw [Nat.add_sub_cancel' (Nat.one_le_iff_ne_zero.2 hpos)] at hloop
  have hrun := (execAll_cons (exec_acq_sentBytes h hf hth hb hrdy)).trans <|
    (execAll_append hloop).trans (execAll_cons (is := []) (exec_sret_sentBytes hf hth.1))
  exact ⟨_, hrun, emitted_eq (List.append_assoc _ _ _), txBusy_sentBytes_all (s := s) t.toNat,
    List.getElem?_set_self hlt, rfl⟩

end Sys2Proof.Machine
end

section
/-! Running, blocked and faulted steps (00_scope.md R11, R12, 10_state.md R38, 30_encoding.md R93). -/

namespace Sys2Proof.Machine

/-! ### The step that the schedule names (R91, R93; log 1, log 15) -/

section
variable {s : State} {rest : List Action}

theorem step_word {w : StimWord} {i : Instr} (hf : s.fault = none) (hs : s.sched = .word w :: rest)
    (hw : decodeWord s.nthreads w = some i) : step s = advanced (exec i s) := by
  simp [step, hf, hs, hw]

theorem step_entry {a : Action} (hf : s.fault = none) (hs : s.sched = a :: rest)
    (ha : ∀ w, a ≠ .word w) : step s = advanced (perform a s) := by
  cases a with
  | word w => exact absurd rfl (ha w)
  | _ => simp [step, hf, hs]

end

/-- Settles O8: a step is the operation at the head of the schedule, with the entry taken. -/
theorem stepRunsWhatIsScheduled : Obligations.StepRunsWhatIsScheduled := by
  refine ⟨fun s w rest i hf hs hw => ?word, fun s a rest hf hs ha => ?entry⟩
  case word => rw [step_word hf hs hw]; cases exec i s <;> rfl
  case entry => rw [step_entry hf hs ha]; cases perform a s <;> rfl

/-! ### The faulted block (R11, R38) -/

/-- Every meaning looks at FAULT first. -/
theorem exec_eq_whenRunning (i : Instr) (s : State) : ∃ k, exec i s = whenRunning s k := by
  cases i <;> exact ⟨_, rfl⟩

theorem perform_eq_whenRunning (a : Action) (s : State) (ha : ∀ w, a ≠ .word w) :
    ∃ k, perform a s = whenRunning s k := by
  cases a with
  | word w => exact absurd rfl (ha w)
  | _ => exact ⟨_, rfl⟩

theorem exec_next_running {i : Instr} {s t : State} (h : exec i s = .next t) : s.fault = none := by
  obtain ⟨k, hk⟩ := exec_eq_whenRunning i s
  exact (whenRunning_next.1 (hk.symm.trans h)).1

/-- Settles O9: the operations and `step` itself look at FAULT before anything else. -/
theorem faultedBlockTakesNoStep : Obligations.FaultedBlockTakesNoStep := by
  refine fun s r hr => ⟨fun i => ?_, fun a ha => ?_, whenRunning_some _ hr⟩
  · obtain ⟨k, hk⟩ := exec_eq_whenRunning i s
    rw [hk, whenRunning_some k hr]
  · obtain ⟨k, hk⟩ := perform_eq_whenRunning a s ha
    rw [hk, whenRunning_some k hr]

/-! ### Raising a fault (R11, R222) -/

/-- A next state with a fault recorded is the state `s` with FAULT written, by a code that is raised. -/
def RaisesOnly (s : State) (o : Out) : Prop :=
  ∀ t, o = .next t → t.fault ≠ none →
    ∃ r : FaultRecord, r.code ≠ .sendContext ∧ t = { s with fault := some r }

section
variable {s : State}

theorem raisesOnly_raiseFault (c : FaultCode) (info : Nat) (hc : c ≠ .sendContext := by decide) :
    RaisesOnly s (raiseFault c info s) :=
  fun _ ht _ => ⟨⟨c, info⟩, hc, raiseFault_next.1 ht⟩

/-- A step that does not write FAULT raises nothing. -/
theorem raisesOnly_of_fault {o : Out} (h : ∀ t, o = .next t → t.fault = none) : RaisesOnly s o :=
  fun t ht hfault => absurd (h t ht) hfault

theorem raisesOnly_next {t : State} (h : t.fault = none) : RaisesOnly s (.next t) :=
  raisesOnly_of_fault fun _ ht => by rw [next_iff.1 ht, h]

theorem raisesOnly_ite {c : Prop} [Decidable c] {k l : Out} (hk : RaisesOnly s k)
    (hl : RaisesOnly s l) : RaisesOnly s (if c then k else l) := by
  split
  · exact hk
  · exact hl

theorem raisesOnly_threadStep {n : Nat} {st : ThState} {k : Thread → Out}
    (hk : ∀ th, s.fault = none → RaisesOnly s (k th)) : RaisesOnly s (threadStep n st s k) := by
  intro t ht
  obtain ⟨hf, th, -, -, hnext⟩ := threadStep_next.1 ht
  exact hk th hf t hnext

/-! The operations with a check that may fail, each with its codes (R170, R180, R200 to R204, R250). -/

theorem sendCall_raisesOnly (n base : Nat) (len : Count) : RaisesOnly s (sendCall n base len s) :=
  raisesOnly_threadStep fun _ hf =>
    raisesOnly_ite (raisesOnly_raiseFault _ _) <|
    raisesOnly_ite (raisesOnly_raiseFault _ _) <|
    raisesOnly_ite (raisesOnly_raiseFault _ _) (raisesOnly_next hf)

theorem sendPolling_raisesOnly (n base : Nat) (len : Count) :
    RaisesOnly s (sendPolling n base len s) :=
  raisesOnly_threadStep fun _ hf =>
    raisesOnly_ite (raisesOnly_raiseFault _ _) <|
    raisesOnly_ite (raisesOnly_raiseFault _ _) <|
    raisesOnly_ite (raisesOnly_raiseFault _ _) <|
    raisesOnly_ite (raisesOnly_raiseFault _ _) (raisesOnly_next hf)

theorem irqEnWrite_raisesOnly (hf : s.fault = none) (v : Bool) : RaisesOnly s (irqEnWrite v s) :=
  raisesOnly_ite (raisesOnly_raiseFault _ _) <|
    raisesOnly_ite (raisesOnly_raiseFault _ _) (raisesOnly_next hf)

theorem crWrite_raisesOnly (n r v : Nat) : RaisesOnly s (crWrite n r v s) := by
  refine raisesOnly_threadStep fun _ hf => ?_
  match r with
  | 0 =>
    exact raisesOnly_ite (raisesOnly_raiseFault _ _) <|
      raisesOnly_ite (raisesOnly_raiseFault _ _) (raisesOnly_next hf)
  | 1 => exact raisesOnly_ite (raisesOnly_raiseFault _ _) (raisesOnly_next hf)
  | 2 => exact raisesOnly_ite (raisesOnly_raiseFault _ _) (irqEnWrite_raisesOnly hf _)
  | r + 3 => exact raisesOnly_raiseFault _ _

theorem crRead_raisesOnly (n r : Nat) : RaisesOnly s (crRead n r s) := by
  refine raisesOnly_threadStep fun _ hf => ?_
  split
  · exact raisesOnly_next hf
  · exact raisesOnly_raiseFault _ _

theorem resetBy_raisesOnly (n : Nat) : RaisesOnly s (resetBy n s) :=
  raisesOnly_threadStep fun _ hf =>
    raisesOnly_ite (raisesOnly_raiseFault _ _) (raisesOnly_next hf)

/-! The callers' operations without such a check. -/

theorem reenable_raisesOnly (n : Nat) : RaisesOnly s (reenable n s) :=
  raisesOnly_threadStep fun _ hf => raisesOnly_next hf

theorem acquire_raisesOnly (n : Nat) : RaisesOnly s (acquire n s) :=
  raisesOnly_of_fault fun t ht => by
    obtain ⟨th, hf, -, -, -, rfl⟩ := acquire_next.1 ht
    unfold txFirst
    split <;> exact hf

theorem sendReturn_raisesOnly (n : Nat) : RaisesOnly s (sendReturn n s) :=
  raisesOnly_of_fault fun t ht => by
    obtain ⟨th, hf, -, -, -, rfl⟩ := sendReturn_next.1 ht
    exact hf

theorem pollStep_raisesOnly (n : Nat) : RaisesOnly s (pollStep n s) :=
  raisesOnly_threadStep fun th hf => raisesOnly_next <| by
    unfold pollWrite pollFail
    dsimp only
    split <;> split <;> exact hf

theorem exec_raisesOnly (i : Instr) : RaisesOnly s (exec i s) := by
  cases i with
  | crw r v => exact crWrite_raisesOnly _ _ _
  | crr r => exact crRead_raisesOnly _ _
  | reen => exact reenable_raisesOnly 0
  | reset => exact resetBy_raisesOnly 0
  | send n len => exact sendCall_raisesOnly _ _ _
  | psend n len => exact sendPolling_raisesOnly _ _ _
  | acq n => exact acquire_raisesOnly n.toNat
  | sret n => exact sendReturn_raisesOnly n.toNat
  | pstep n => exact pollStep_raisesOnly n.toNat
  | txi =>
    refine raisesOnly_of_fault fun t ht => ?_
    obtain ⟨hf, -, -, -, rfl⟩ := execTxi_next.1 ht
    exact hf
  | lrdy =>
    refine raisesOnly_of_fault fun t ht => ?_
    obtain ⟨hf, -, rfl⟩ := execLrdy_next.1 ht
    exact hf
  | irqrx =>
    refine raisesOnly_of_fault fun t ht => ?_
    have hf := exec_next_running ht
    rwa [execIrqrx_frame ht]
  | rx | rxe | evqf =>
    refine raisesOnly_of_fault fun t ht => ?_
    obtain ⟨hf, hk⟩ := whenRunning_next.1 ht
    obtain rfl := next_iff.1 hk
    exact hf
  | _ =>
    refine raisesOnly_of_fault fun t ht => ?_
    have hf := exec_next_running ht
    obtain ⟨hframe, -⟩ := softWord_frame rfl ht
    rwa [hframe]

theorem perform_raisesOnly (a : Action) : RaisesOnly s (perform a s) := by
  cases a with
  | word w => intro t ht; cases ht
  | crWrite n r v => exact crWrite_raisesOnly _ _ _
  | crRead n r => exact crRead_raisesOnly _ _
  | reenable n => exact reenable_raisesOnly n
  | reset n => exact resetBy_raisesOnly n
  | send n base len => exact sendCall_raisesOnly _ _ _
  | sendPolling n base len => exact sendPolling_raisesOnly _ _ _
  | acquire n => exact acquire_raisesOnly n
  | sendReturn n => exact sendReturn_raisesOnly n
  | pollStep n => exact pollStep_raisesOnly n
  | supplyTime time =>
    refine raisesOnly_of_fault fun t ht => ?_
    obtain ⟨hf, rfl⟩ := supplyTime_next ht
    exact hf
  | callerStore x b =>
    refine raisesOnly_of_fault fun t ht => ?_
    obtain ⟨hf, -, rfl⟩ := callerStore_next ht
    exact hf
  | bell | consoleReadKey | registerAccess x =>
    exact raisesOnly_of_fault fun t ht => absurd ht refuseRequest_ne_next

end

/-- Settles O10: FAULT is written by `raiseFault` only, and no check raises F_SEND_CONTEXT. -/
theorem raisingAFaultDiscardsTheStep : Obligations.RaisingAFaultDiscardsTheStep :=
  ⟨fun i _ t => exec_raisesOnly i t, fun a _ t => perform_raisesOnly a t⟩

/-! ### False guards (R12, R93) -/

section
variable {s : State}

theorem whenEnabled_blocked {g : Bool} (hf : s.fault = none) (hg : g = false) (k : Out) :
    whenRunning s (whenEnabled g k) = .refused .blocked := by
  rw [whenRunning_none _ hf, hg, whenEnabled_false]

theorem exec_irqrx_blocked (hf : s.fault = none) (h : s.irqEn = false ∨ s.linkRxq = []) :
    exec .irqrx s = .refused .blocked := by
  have hrun : exec .irqrx s = execIrqrx s := rfl
  rw [hrun, execIrqrx, whenRunning_none _ hf]
  cases hq : s.linkRxq with
  | nil => rfl
  | cons c rest =>
    have hirq : s.irqEn = false := h.resolve_right (by simp [hq])
    rw [hirq]
    rfl

/-- The guards inside a thread's step: TH_STATE, then TX_BUSY = 0 (R172, R174). -/
theorem threadStep_blocked_or_busy {n : Nat} {st : ThState} {th : Thread} {k : Thread → Out}
    (hf : s.fault = none) (hget : s.threads[n]? = some th) (h : th.state ≠ st ∨ s.txBusy = true) :
    threadStep n st s (fun th => whenEnabled (!s.txBusy) (k th)) = .refused .blocked := by
  by_cases hst : th.state = st
  · have hb : s.txBusy = true := h.resolve_left (not_not_intro hst)
    rw [threadStep_eq hf hget hst, hb]
    rfl
  · exact threadStep_blocked hf hget hst

end

/-- Settles O11: each guard is the one that the operation tests, in its state or its TH_STATE. -/
theorem falseGuardsBlock : Obligations.FalseGuardsBlock := by
  refine fun s hf => ⟨exec_irqrx_blocked hf, fun h => whenEnabled_blocked hf ?softb _,
    fun h => whenEnabled_blocked hf h _, fun h => whenEnabled_blocked hf ?txi _,
    fun h => whenEnabled_blocked hf ?lrdy _, fun t len th hget => ?thread,
    fun r v th hget hst => ?control⟩
  case softb => rcases h with h | h <;> simp [h]
  case txi => rcases h with h | h | h <;> simp [h]
  case lrdy => simp [h]
  case thread =>
    exact ⟨fun hst => ⟨threadStep_blocked hf hget hst, threadStep_blocked hf hget hst⟩,
      threadStep_blocked_or_busy hf hget, threadStep_blocked_or_busy hf hget,
      threadStep_blocked hf hget⟩
  case control =>
    exact ⟨threadStep_blocked hf hget hst, threadStep_blocked hf hget hst,
      threadStep_blocked hf hget hst, threadStep_blocked hf hget hst⟩

/-! ### The illegal register writes (R200, R231) -/

/-- Settles O35: each illegal write is the first check of its register that fails; CRW is T0's write. -/
theorem illegalRegisterWritesFault : Obligations.IllegalRegisterWritesFault := by
  refine ⟨fun s t v th hf ⟨hget, hst⟩ => ?_, fun s r v => rfl⟩
  refine ⟨fun hv => ?modeRange, ?modeReserved, fun hv => ?genRange, fun hv => ?irqRange,
    fun r hr => ?number⟩
  case modeRange => exact (threadStep_eq hf hget hst).trans (if_pos hv)
  case modeReserved => exact threadStep_eq hf hget hst
  case genRange => exact (threadStep_eq hf hget hst).trans (if_pos hv)
  case irqRange => exact (threadStep_eq hf hget hst).trans (if_pos hv)
  case number =>
    match r with
    | r + 3 => exact threadStep_eq hf hget hst

end Sys2Proof.Machine
end

section
/-! The words that call `send` and `send_polling`, and the inputs of the link and the environment
(30_encoding.md R92, 10_state.md R40 to R43). -/

namespace Sys2Proof.Machine

/-! ### The words SEND and PSEND (R92, R170, R180) -/

/-- The 4-bit length of a command word is a length of the calls, with the same value. -/
theorem cmdLen_toNat (len : BitVec 4) : (BitVec.ofNat 32 len.toNat).toNat = len.toNat :=
  Nat.mod_eq_of_lt (len.isLt.trans (by decide))

theorem cmdLen_ne_zero {len : BitVec 4} (h : len ≠ 0) : BitVec.ofNat 32 len.toNat ≠ 0 := fun h0 => by
  have hzero := cmdLen_toNat len
  rw [h0] at hzero
  exact h (BitVec.eq_of_toNat_eq hzero.symm)

/-- A buffer that is not empty and within the address space begins at an address. -/
theorem base_lt_of_fit {p : Params} {base : Nat} {len : BitVec 4} (h : len ≠ 0)
    (hfit : base + len.toNat ≤ 2 ^ p.addrW) : base < 2 ^ p.addrW := by
  have hpos : len.toNat ≠ 0 := fun h0 => h (BitVec.eq_of_toNat_eq h0)
  omega

theorem exec_send (s : State) (t len : BitVec 4) :
    exec (.send t len) s =
      perform (.send t.toNat (s.bufOf t.toNat) (BitVec.ofNat 32 len.toNat)) s := by
  rw [BitVec.ofNat_toNat]
  rfl

theorem exec_psend (s : State) (t len : BitVec 4) :
    exec (.psend t len) s =
      perform (.sendPolling t.toNat (s.bufOf t.toNat) (BitVec.ofNat 32 len.toNat)) s := by
  rw [BitVec.ofNat_toNat]
  rfl

/-- Settles O40: SEND is the call by definition, and the last clause of the call's checks accepts it. -/
theorem sendWordCallsSend : Obligations.SendWordCallsSend := by
  refine ⟨fun s t len => rfl, ?_⟩
  intro s t len th hf hth base hfit hlen hirq
  obtain ⟨-, -, -, haccept⟩ := sendCallChecksThenWaitsToAcquire s t.toNat base
    (BitVec.ofNat 32 len.toNat) th hf hth (base_lt_of_fit hlen hfit)
  exact (exec_send s t len).trans
    (haccept (cmdLen_ne_zero hlen) ((cmdLen_toNat len).symm ▸ hfit) hirq)

/-- Settles O45: PSEND is the call by definition, and with every thread IDLE no other output is in
progress. -/
theorem psendWordCallsSendPolling : Obligations.PsendWordCallsSendPolling := by
  refine ⟨fun s t len => rfl, ?_⟩
  intro s t len th hf hget hidle base hfit hlen hirq hb
  have hquiet : ¬ s.OtherOutput t.toNat := by
    rintro (hbusy | ⟨u, w, -, hw, hst⟩)
    · simp [hb] at hbusy
    · exact hst (hidle w (List.mem_of_getElem? hw))
  obtain ⟨-, -, -, -, haccept⟩ := sendPollingChecksThenPolls s t.toNat base
    (BitVec.ofNat 32 len.toNat) th hf ⟨hget, hidle th (List.mem_of_getElem? hget)⟩
    (base_lt_of_fit hlen hfit)
  exact (exec_psend s t len).trans
    (haccept (cmdLen_ne_zero hlen) ((cmdLen_toNat len).symm ▸ hfit) hirq hquiet)

/-! ### The link and the environment (R40 to R43) -/

/-- Settles O49: in a running block only LINK_TX_DONE has a guard. -/
theorem linkAndEnvironmentDriveTheirInputs : Obligations.LinkAndEnvironmentDriveTheirInputs :=
  fun _ _ _ hf => ⟨whenRunning_none _ hf, whenRunning_none _ hf,
    fun hrdy => execLrdy_next.2 ⟨hf, hrdy, rfl⟩, whenRunning_none _ hf⟩

theorem bufferHeld_eq_false {s : State} {a : Nat}
    (h : ∀ th ∈ s.threads, th.state ≠ .idle → a < th.base ∨ th.base + th.len.toNat ≤ a) :
    bufferHeld a s = false := by
  refine List.any_eq_false.2 fun th hth hheld => ?_
  simp only [Bool.and_eq_true, bne_iff_ne, decide_eq_true_eq] at hheld
  obtain ⟨⟨hst, hlo⟩, hhi⟩ := hheld
  rcases h th hth hst with hbelow | habove <;> omega

/-- A store at an address outside every buffer that a call holds (R262; log 11). -/
theorem callerStore_of_free {s : State} {a : Nat} (b : Byte) (hf : s.fault = none)
    (haddr : a < addrSpace s.cfg) (hfree : bufferHeld a s = false) :
    callerStore a b s = .next { s with mem := Memory.write s.mem a b } := by
  rw [callerStore, whenRunning_none _ hf, if_neg (Nat.not_le.2 haddr), hfree]
  rfl

/-- Settles O50: the laws of caller memory for the store, and ROUTE_EVENT for the TIME. -/
theorem environmentRequestsChangeOneInput : Obligations.EnvironmentRequestsChangeOneInput := by
  refine ⟨fun s time hf => whenRunning_none _ hf, fun s a b hmem hf haddr hfree => ?store,
    fun s sc time hf hidle hm hq htime => ?event⟩
  case store =>
    exact ⟨_, callerStore_of_free b hf haddr (bufferHeld_eq_false hfree),
      Memory.write_wf _ _ _ hmem.1, Memory.read_write_same _ _ _ hmem.1,
      fun a' ha => Memory.read_write_other _ _ _ _ hmem.1 ha⟩
  case event =>
    have hnow : s.timeNow = time := by rw [State.timeNow, htime]; rfl
    refine ⟨s.emitEvent sc 1, ?_, by rw [State.emitEvent_history, hnow], rfl⟩
    rw [exec_keyPress hf hidle, routeKey_event _ hm hq, scancode_press, transitionOf_press]
    rfl

end Sys2Proof.Machine
end

section
/-! Who writes the control state and the inputs (60_exceptions.md R236), who emits a diagnostic (R221),
and which keys change MODS (45_control.md R207). -/

namespace Sys2Proof.Machine

/-! ### The writers of the control state, the parameters, caller memory and LINK_RXQ (R236) -/

abbrev State.KeepsControl (s t : State) : Prop :=
  t.mode = s.mode ∧ t.genPresent = s.genPresent ∧ t.irqEn = s.irqEn

abbrev State.KeepsParams (s t : State) : Prop := t.cfg = s.cfg ∧ t.nthreads = s.nthreads

/-- A step that writes neither the control state nor the parameters, caller memory and LINK_RXQ. -/
abbrev State.KeepsAll (s t : State) : Prop :=
  s.KeepsControl t ∧ s.KeepsParams t ∧ t.mem = s.mem ∧ t.linkRxq = s.linkRxq

section
variable {s t : State} {n : Nat}

theorem State.TransmitFrame.keepsAll (ht : s.TransmitFrame t) (hn : t.nthreads = s.nthreads) :
    s.KeepsAll t := by
  refine ⟨?_, ⟨?_, hn⟩, ?_, ?_⟩ <;> rw [ht]
  exact ⟨rfl, rfl, rfl⟩

theorem State.SoftFrame.keepsAll (h : s.SoftFrame t) : s.KeepsAll t := by
  obtain ⟨ht, -⟩ := h
  rw [ht]
  exact ⟨⟨rfl, rfl, rfl⟩, ⟨rfl, rfl⟩, rfl, rfl⟩

/-! The transmitter writes registers of a thread and makes none. -/

theorem sendCall_nthreads {base : Nat} {len : Count} (h : sendCall n base len s = .next t) :
    t.nthreads = s.nthreads := by
  obtain ⟨th, -, -, -, ⟨c, rfl⟩ | ⟨-, -, -, rfl⟩⟩ := sendCall_next h
  · rfl
  · exact setThread_nthreads ..

theorem sendPolling_nthreads {base : Nat} {len : Count} (h : sendPolling n base len s = .next t) :
    t.nthreads = s.nthreads := by
  obtain ⟨th, -, -, -, ⟨c, rfl⟩ | ⟨-, -, -, -, -, rfl⟩⟩ := sendPolling_next h
  · rfl
  · exact setThread_nthreads ..

theorem acquire_nthreads (h : acquire n s = .next t) : t.nthreads = s.nthreads := by
  obtain ⟨th, -, -, -, -, rfl⟩ := acquire_next.1 h
  have hset := setThread_nthreads s n { th with state := .wait }
  unfold txFirst
  split <;> exact hset

theorem sendReturn_nthreads (h : sendReturn n s = .next t) : t.nthreads = s.nthreads := by
  obtain ⟨th, -, -, -, -, rfl⟩ := sendReturn_next.1 h
  exact setThread_nthreads ..

theorem pollStep_nthreads (h : pollStep n s = .next t) : t.nthreads = s.nthreads := by
  obtain ⟨th, -, -, -, rfl⟩ := pollStep_next.1 h
  unfold pollWrite pollFail
  dsimp only
  split <;> split <;> exact setThread_nthreads ..

theorem crRead_keepsAll {r : Nat} (h : crRead n r s = .next t) : s.KeepsAll t := by
  obtain ⟨th, -, -, -, ⟨c, rfl⟩ | ⟨v, -, rfl⟩⟩ := crRead_next h <;>
    exact ⟨⟨rfl, rfl, rfl⟩, ⟨rfl, rfl⟩, rfl, rfl⟩

theorem reenable_keepsAll (h : reenable n s = .next t) : s.KeepsAll t := by
  rw [reenable_eq h]
  exact ⟨⟨rfl, rfl, rfl⟩, ⟨rfl, rfl⟩, rfl, rfl⟩

/-! CRWRITE and RESET write the control state, and none of the rest. -/

theorem crWrite_keeps {r v : Nat} (h : crWrite n r v s = .next t) :
    s.KeepsParams t ∧ t.mem = s.mem ∧ t.linkRxq = s.linkRxq := by
  obtain ⟨th, -, -, -, ⟨c, rfl⟩ | ⟨-, -, rfl⟩ | ⟨-, -, rfl⟩ | ⟨-, -, hirq⟩⟩ := crWrite_next h
  · exact ⟨⟨rfl, rfl⟩, rfl, rfl⟩
  · exact ⟨⟨rfl, rfl⟩, rfl, rfl⟩
  · exact ⟨⟨rfl, rfl⟩, rfl, rfl⟩
  · obtain ⟨c, rfl⟩ | ⟨-, -, rfl⟩ := irqEnWrite_next hirq <;> exact ⟨⟨rfl, rfl⟩, rfl, rfl⟩

theorem resetBy_keeps (h : resetBy n s = .next t) :
    s.KeepsParams t ∧ t.mem = s.mem ∧ t.linkRxq = s.linkRxq := by
  obtain ⟨th, -, -, -, ⟨c, rfl⟩ | ⟨-, rfl⟩⟩ := resetBy_next h
  · exact ⟨⟨rfl, rfl⟩, rfl, rfl⟩
  · exact ⟨⟨rfl, resetState_threads_length s⟩, rfl, rfl⟩

/-- An instruction keeps it all, unless it is CRW or RESET, which write the control state, or one of the
three words that work on LINK_RXQ. -/
theorem exec_keeps {i : Instr} (h : exec i s = .next t) :
    s.KeepsAll t ∨
    (((∃ r v, i = .crw r v) ∨ i = .reset) ∧
      s.KeepsParams t ∧ t.mem = s.mem ∧ t.linkRxq = s.linkRxq) ∨
    (((∃ b, i = .rx b ∨ i = .rxe b) ∨ i = .irqrx) ∧
      s.KeepsControl t ∧ s.KeepsParams t ∧ t.mem = s.mem) := by
  cases i with
  | crw r v => exact .inr (.inl ⟨.inl ⟨r, v, rfl⟩, crWrite_keeps h⟩)
  | reset => exact .inr (.inl ⟨.inr rfl, resetBy_keeps h⟩)
  | rx b | rxe b =>
    obtain ⟨-, ht⟩ := whenRunning_next.1 h
    obtain rfl := next_iff.1 ht
    exact .inr (.inr ⟨.inl ⟨b, by simp⟩, ⟨rfl, rfl, rfl⟩, ⟨rfl, rfl⟩, rfl⟩)
  | irqrx =>
    rw [execIrqrx_frame h]
    exact .inr (.inr ⟨.inr rfl, ⟨rfl, rfl, rfl⟩, ⟨rfl, rfl⟩, rfl⟩)
  | evqf v =>
    obtain ⟨-, ht⟩ := whenRunning_next.1 h
    obtain rfl := next_iff.1 ht
    exact .inl ⟨⟨rfl, rfl, rfl⟩, ⟨rfl, rfl⟩, rfl, rfl⟩
  | lrdy =>
    obtain ⟨-, -, rfl⟩ := execLrdy_next.1 h
    exact .inl ⟨⟨rfl, rfl, rfl⟩, ⟨rfl, rfl⟩, rfl, rfl⟩
  | txi =>
    obtain ⟨-, -, -, -, rfl⟩ := execTxi_next.1 h
    exact .inl ⟨⟨rfl, rfl, rfl⟩, ⟨rfl, rfl⟩, rfl, rfl⟩
  | crr => exact .inl (crRead_keepsAll h)
  | reen => exact .inl (reenable_keepsAll h)
  | send => exact .inl ((sendCall_frame h).keepsAll (sendCall_nthreads h))
  | psend => exact .inl ((sendPolling_frame h).keepsAll (sendPolling_nthreads h))
  | acq => exact .inl ((acquire_frame h).keepsAll (acquire_nthreads h))
  | sret => exact .inl ((sendReturn_frame h).keepsAll (sendReturn_nthreads h))
  | pstep => exact .inl ((pollStep_frame h).keepsAll (pollStep_nthreads h))
  | _ => exact .inl (softWord_frame rfl h).keepsAll

/-- The same of the schedule entries that are no words, with a caller's store in place of LINK_RXQ's
words (log 11, log 15). -/
theorem perform_keeps {a : Action} (h : perform a s = .next t) :
    s.KeepsAll t ∨
    (((∃ u r v, a = .crWrite u r v) ∨ ∃ u, a = .reset u) ∧
      s.KeepsParams t ∧ t.mem = s.mem ∧ t.linkRxq = s.linkRxq) ∨
    ((∃ x b, a = .callerStore x b) ∧
      s.KeepsControl t ∧ s.KeepsParams t ∧ t.linkRxq = s.linkRxq) := by
  cases a with
  | word => cases h
  | crWrite u r v => exact .inr (.inl ⟨.inl ⟨u, r, v, rfl⟩, crWrite_keeps h⟩)
  | reset u => exact .inr (.inl ⟨.inr ⟨u, rfl⟩, resetBy_keeps h⟩)
  | callerStore x b =>
    obtain ⟨-, -, rfl⟩ := callerStore_next h
    exact .inr (.inr ⟨⟨x, b, rfl⟩, ⟨rfl, rfl, rfl⟩, ⟨rfl, rfl⟩, rfl⟩)
  | supplyTime =>
    obtain ⟨-, rfl⟩ := supplyTime_next h
    exact .inl ⟨⟨rfl, rfl, rfl⟩, ⟨rfl, rfl⟩, rfl, rfl⟩
  | crRead => exact .inl (crRead_keepsAll h)
  | reenable => exact .inl (reenable_keepsAll h)
  | send => exact .inl ((sendCall_frame h).keepsAll (sendCall_nthreads h))
  | sendPolling => exact .inl ((sendPolling_frame h).keepsAll (sendPolling_nthreads h))
  | acquire => exact .inl ((acquire_frame h).keepsAll (acquire_nthreads h))
  | sendReturn => exact .inl ((sendReturn_frame h).keepsAll (sendReturn_nthreads h))
  | pollStep => exact .inl ((pollStep_frame h).keepsAll (pollStep_nthreads h))
  | bell | consoleReadKey | registerAccess => exact absurd h refuseRequest_ne_next

end

/-- Settles O53: an operation writes at most one of the three groups, and then is one of its writers. -/
theorem controlStateHasItsWriters : Obligations.ControlStateHasItsWriters := by
  refine ⟨fun i s t h => ?instr, fun a s t h => ?entry⟩
  case instr =>
    rcases exec_keeps h with ⟨hcontrol, ⟨hcfg, hn⟩, hmem, hq⟩ | ⟨hi, ⟨hcfg, hn⟩, hmem, hq⟩ |
      ⟨hi, hcontrol, ⟨hcfg, hn⟩, hmem⟩
    · exact ⟨fun _ _ => hcontrol, hcfg, hmem, hn, fun _ _ => hq⟩
    · refine ⟨fun hcrw hreset => ?_, hcfg, hmem, hn, fun _ _ => hq⟩
      rcases hi with ⟨r, v, rfl⟩ | rfl
      · exact absurd rfl (hcrw r v)
      · exact absurd rfl hreset
    · refine ⟨fun _ _ => hcontrol, hcfg, hmem, hn, fun hrx hirqrx => ?_⟩
      rcases hi with ⟨b, rfl | rfl⟩ | rfl
      · exact absurd rfl (hrx b).1
      · exact absurd rfl (hrx b).2
      · exact absurd rfl hirqrx
  case entry =>
    rcases perform_keeps h with ⟨hcontrol, ⟨hcfg, hn⟩, hmem, hq⟩ | ⟨ha, ⟨hcfg, hn⟩, hmem, hq⟩ |
      ⟨⟨x, b, rfl⟩, hcontrol, ⟨hcfg, hn⟩, hq⟩
    · exact ⟨fun _ _ => hcontrol, hcfg, hn, hq, fun _ => hmem⟩
    · refine ⟨fun hcrw hreset => ?_, hcfg, hn, hq, fun _ => hmem⟩
      rcases ha with ⟨u, r, v, rfl⟩ | ⟨u, rfl⟩
      · exact absurd rfl (hcrw u r v)
      · exact absurd rfl (hreset u)
    · exact ⟨fun _ _ => hcontrol, hcfg, hn, hq, fun hstore => absurd rfl (hstore x b)⟩

/-! ### Diagnostics (R221) -/

/-- The step from s to t emits the one diagnostic (c, d), for one of the two reasons of R221. -/
abbrev State.Diagnoses (s t : State) (c : DiagCode) (d : Byte) : Prop :=
  s.decState = .idle ∧ emitted s t = [.diag c d] ∧
    ((c = .unknownHeader ∧ 0xF6 ≤ d.toNat ∧ hdrLookup s.cfg d = none) ∨
     (c = .evqFull ∧ d.toNat < 0x80 ∧ s.mode = 1 ∧ s.evqFull = true))

theorem scanData_lt (b : Byte) : (scanData b).toNat < 0x80 := by
  rw [scanData, BitVec.toNat_setWidth_of_le (by decide)]
  exact (scancode b).isLt

section
variable {s t : State} {b : Byte} {c : DiagCode} {d : Byte}

/-- A key is reported only when the event queue is full in MODE = EVENT (R142). -/
theorem routeKey_diagnoses (hidle : s.decState = .idle) (h : .diag c d ∈ emitted s (routeKey b s)) :
    s.Diagnoses (routeKey b s) c d := by
  rcases routeKey_cases b s with ⟨hm, hq, hr⟩ | ⟨-, -, hr⟩ | ⟨-, -, -, hr⟩ | ⟨-, -, -, hr⟩ |
    ⟨-, -, -, -, hr⟩ | ⟨-, -, -, -, hr⟩ <;> rw [hr] at h ⊢
  · have hone : emitted s (s.emit (.diag .evqFull (scanData b))) = [.diag .evqFull (scanData b)] :=
      emitted_eq rfl
    obtain ⟨rfl, rfl⟩ := Txn.diag.inj (List.mem_singleton.1 (hone ▸ h))
    exact ⟨hidle, hone, .inr ⟨rfl, scanData_lt b, hm, hq⟩⟩
  · simp [emitted] at h
  · simp [emitted] at h
  · simp [emitted] at h
  · split at h <;> simp [emitted] at h
  · simp [emitted] at h

theorem decUnknown_diagnoses (hidle : s.decState = .idle) (hhdr : isHeader b = true)
    (hent : hdrLookup s.cfg b = none) (h : .diag c d ∈ emitted s (decUnknown b s)) :
    s.Diagnoses (decUnknown b s) c d := by
  have hone : emitted s (decUnknown b s) = [.diag .unknownHeader b] := emitted_eq rfl
  obtain ⟨rfl, rfl⟩ := Txn.diag.inj (List.mem_singleton.1 (hone ▸ h))
  exact ⟨hidle, hone, .inl ⟨rfl, isHeader_iff.1 hhdr, hent⟩⟩

/-- A payload byte is never reported, whatever its value. -/
theorem decPayload_not_diag : .diag c d ∉ emitted s (decPayload b s) := by
  intro h
  by_cases hlast : s.pkgIdx + 1 = s.pkgLen
  · rw [decPayload_of_eq b hlast, emitted_eq rfl] at h
    cases (mem_dispatched h).1
  · rw [decPayload_of_ne b hlast] at h
    simp [emitted] at h

theorem decodeInto_diagnoses (h : .diag c d ∈ emitted s (decodeInto b s)) :
    s.Diagnoses (decodeInto b s) c d := by
  rcases decodeInto_cases b s with ⟨-, hd⟩ | ⟨hidle, hhdr, hent, hd⟩ | ⟨e, -, -, -, hd⟩ |
    ⟨hidle, -, hd⟩ <;> rw [hd] at h ⊢
  · exact absurd h decPayload_not_diag
  · exact decUnknown_diagnoses hidle hhdr hent h
  · cases (decHeader_emits_nothing b e.kind e.len s).of_mem h
  · exact routeKey_diagnoses hidle h

end

/-- Settles O31: of SOFT's operations only an unknown header and a key can emit a diagnostic, by
themselves or in SOFTN. -/
theorem onlyTwoDiagnosticsAreEmitted : Obligations.OnlyTwoDiagnosticsAreEmitted := by
  intro i s t c d hwf h hdiag
  cases hi : isSoftWord i with
  | false => cases (exec_emits_of_not_softWord h hi).of_mem hdiag
  | true =>
    cases i with
    | softn =>
      obtain ⟨-, -, rfl⟩ := execSoftn_next.1 h
      exact decodeInto_diagnoses (s := drainTake s) hdiag
    | softb =>
      obtain ⟨-, -, -, rfl⟩ := execSoftb_next.1 h
      cases (drainBegin_emits_nothing s).of_mem hdiag
    | payload b =>
      obtain ⟨-, -, rfl⟩ := execPayload_next.1 h
      exact absurd hdiag decPayload_not_diag
    | hdrUnknown b =>
      obtain ⟨-, hidle, rfl⟩ := inIdle_next.1 h
      simp only [wellFormed, Bool.and_eq_true, Option.isNone_iff_eq_none] at hwf
      obtain ⟨⟨-, hhdr⟩, hent⟩ := hwf
      exact decUnknown_diagnoses hidle hhdr hent hdiag
    | keyPress sc | keyRelease sc =>
      obtain ⟨-, hidle, rfl⟩ := inIdle_next.1 h
      exact routeKey_diagnoses hidle hdiag
    | hdrMem b n | hdrAms b n | hdrRms b n | hdrClk b n | hdrJoy0 b n | hdrJoy1 b n =>
      obtain ⟨-, -, rfl⟩ := inIdle_next.1 h
      cases (decHeader_emits_nothing b _ n s).of_mem hdiag
    | _ => cases hi

/-! ### MODS (R30, R207) -/

section
variable {s : State} {b : Byte}

theorem terminalPath_of_routeKey_mods (h : (routeKey b s).mods ≠ s.mods) : s.TerminalPath := by
  rcases routeKey_cases b s with ⟨-, -, hr⟩ | ⟨-, -, hr⟩ | ⟨-, -, -, hr⟩ | ⟨hm, hterm, -, -⟩ |
    ⟨hm, hterm, -⟩ | ⟨hm, hterm, -⟩
  · exact absurd (by rw [hr]; rfl) h
  · exact absurd (by rw [hr]; rfl) h
  · exact absurd (by rw [hr]; rfl) h
  all_goals exact ⟨hm, hterm⟩

theorem decPayload_mods (b : Byte) (s : State) : (decPayload b s).mods = s.mods := by
  rw [decPayload_frame]

theorem terminalPath_of_decodeInto_mods (h : (decodeInto b s).mods ≠ s.mods) :
    s.TerminalPath ∧ s.decState = .idle := by
  rcases decodeInto_cases b s with ⟨-, hd⟩ | ⟨-, -, -, hd⟩ | ⟨e, -, -, -, hd⟩ | ⟨hidle, -, hd⟩ <;>
    rw [hd] at h
  · exact absurd (decPayload_mods b s) h
  · exact absurd rfl h
  · exact absurd rfl h
  · exact ⟨terminalPath_of_routeKey_mods h, hidle⟩

end

/-- Settles O32: outside SOFT only REENABLE and RESET write MODS; in SOFT the modifier tracker does. -/
theorem modsChangeOnlyOnTheTerminalPath : Obligations.ModsChangeOnlyOnTheTerminalPath := by
  intro i s t h hmods hreen hreset
  rcases exec_writers h hreset with ⟨hsoft, -⟩ | ⟨-, ht⟩ | ⟨hi, -⟩ | ht
  case inr.inl => exact absurd (by rw [ht]) hmods
  case inr.inr.inl => exact absurd hi hreen
  case inr.inr.inr => exact absurd (by rw [ht]) hmods
  cases i with
  | softn =>
    obtain ⟨-, -, rfl⟩ := execSoftn_next.1 h
    obtain ⟨hterm, hidle⟩ := terminalPath_of_decodeInto_mods (s := drainTake s) hmods
    exact ⟨hterm, hidle, .inl rfl⟩
  | keyPress sc =>
    obtain ⟨-, hidle, rfl⟩ := inIdle_next.1 h
    exact ⟨terminalPath_of_routeKey_mods hmods, hidle, .inr ⟨sc, .inl rfl⟩⟩
  | keyRelease sc =>
    obtain ⟨-, hidle, rfl⟩ := inIdle_next.1 h
    exact ⟨terminalPath_of_routeKey_mods hmods, hidle, .inr ⟨sc, .inr rfl⟩⟩
  | softb =>
    obtain ⟨-, -, -, rfl⟩ := execSoftb_next.1 h
    refine absurd ?_ hmods
    unfold drainBegin
    dsimp only
    split <;> rfl
  | payload b =>
    obtain ⟨-, -, rfl⟩ := execPayload_next.1 h
    exact absurd (decPayload_mods b s) hmods
  | hdrUnknown | hdrMem | hdrAms | hdrRms | hdrClk | hdrJoy0 | hdrJoy1 =>
    obtain ⟨-, -, rfl⟩ := inIdle_next.1 h
    exact absurd rfl hmods
  | _ => cases hsoft

end Sys2Proof.Machine
end

section
/-! The transmitter and the receiver share no state (00_scope.md section 1, 60_exceptions.md section 7):
what each side may write, and that neither reads the other's registers. -/

namespace Sys2Proof.Machine

/-! ### What each side may write -/

theorem transmitWord_frame {i : Instr} {s t : State} (hi : isTransmitWord i = true)
    (h : exec i s = .next t) : s.TransmitFrame t := by
  cases i with
  | send => exact sendCall_frame h
  | acq => exact acquire_frame h
  | sret => exact sendReturn_frame h
  | txi => exact execTxi_frame h
  | lrdy => exact execLrdy_frame h
  | psend => exact sendPolling_frame h
  | pstep => exact pollStep_frame h
  | _ => cases hi

theorem transmitAction_frame {a : Action} {s t : State} (ha : isTransmitAction a = true)
    (h : perform a s = .next t) : s.TransmitFrame t := by
  cases a with
  | send => exact sendCall_frame h
  | acquire => exact acquire_frame h
  | sendReturn => exact sendReturn_frame h
  | sendPolling => exact sendPolling_frame h
  | pollStep => exact pollStep_frame h
  | _ => cases ha

/-- A step that leaves the transmitter's registers, the threads, TXRDY and FAULT as they are. -/
abbrev State.KeepsTransmitter (s t : State) : Prop :=
  t.txBusy = s.txBusy ∧ t.txCursor = s.txCursor ∧ t.txRem = s.txRem ∧ t.threads = s.threads ∧
    t.txrdy = s.txrdy ∧ t.fault = s.fault

theorem receiver_keepsTransmitter {i : Instr} {s t : State} (hi : i = .irqrx ∨ isSoftWord i = true)
    (h : exec i s = .next t) : s.KeepsTransmitter t := by
  rcases hi with rfl | hsoft
  · rw [execIrqrx_frame h]
    exact ⟨rfl, rfl, rfl, rfl, rfl, rfl⟩
  · obtain ⟨ht, -⟩ := softWord_frame hsoft h
    rw [ht]
    exact ⟨rfl, rfl, rfl, rfl, rfl, rfl⟩

/-! ### Carrying an outcome over to another start state

`carried f` goes through each of the guards and checks, so that two runs are compared where they write. -/

section
variable {s u : State} {f : State → State}

theorem carried_whenRunning {k k' : Out} (hf : u.fault = s.fault) (h : k' = carried f k) :
    whenRunning u k' = carried f (whenRunning s k) := by
  rw [whenRunning, whenRunning, hf, h]
  cases s.fault <;> rfl

theorem carried_whenEnabled {k k' : Out} (g : Bool) (h : k' = carried f k) :
    whenEnabled g k' = carried f (whenEnabled g k) := by
  rw [h]
  cases g <;> rfl

theorem carried_threadStep {n : Nat} {st : ThState} {k k' : Thread → Out} (hf : u.fault = s.fault)
    (ht : u.threads = s.threads) (h : ∀ th, k' th = carried f (k th)) :
    threadStep n st u k' = carried f (threadStep n st s k) := by
  refine carried_whenRunning hf ?_
  rw [withThread, withThread, ht]
  cases s.threads[n]? with
  | none => rfl
  | some th => exact carried_whenEnabled _ (h th)

theorem carried_next {t t' : State} (h : t' = f t) : (.next t' : Out) = carried f (.next t) :=
  congrArg _ h

end

/-- A check with the same condition on both sides. -/
theorem ite_eq_map {α β : Type} {g : α → β} {c : Prop} [Decidable c] {x y : α} {x' y' : β}
    (hx : x' = g x) (hy : y' = g y) : (if c then x' else y') = g (if c then x else y) := by
  rw [hx, hy, apply_ite g]

/-! ### The transmitter reads nothing of the receiver's -/

/-- `s` with all that the transmitter does not work on taken from `v`. -/
def State.transmitterBeside (s v : State) : State :=
  { s with
    put := v.put, get := v.get, ring := v.ring, softPend := v.softPend, drActive := v.drActive
    drN := v.drN, decState := v.decState, pkgKind := v.pkgKind, pkgLen := v.pkgLen
    pkgIdx := v.pkgIdx, pkg := v.pkg, mods := v.mods, mode := v.mode, genPresent := v.genPresent
    linkRxq := v.linkRxq, evqFull := v.evqFull, history := v.history, sched := v.sched
    timeIn := v.timeIn, draws := v.draws }

theorem State.SameTransmitter.eq {s u : State} (h : s.SameTransmitter u) :
    u = s.transmitterBeside u := by
  obtain ⟨hcfg, hmem, hirq, hfault, hbusy, hcursor, hrem, hthreads, hrdy⟩ := h
  rw [State.transmitterBeside, ← hcfg, ← hmem, ← hirq, ← hfault, ← hbusy, ← hcursor, ← hrem,
    ← hthreads, ← hrdy]

/-- What a step has written, with its transactions `xs`, is what is carried over. -/
theorem eq_withTransmitter {s u t t' : State} (xs : List Txn) (hhist : t.history = s.history ++ xs)
    (h : t' = { u with
      txBusy := t.txBusy, txCursor := t.txCursor, txRem := t.txRem, threads := t.threads
      txrdy := t.txrdy, fault := t.fault, history := u.history ++ xs }) :
    t' = u.withTransmitter s t := by
  rw [h, State.withTransmitter, emitted_eq hhist]

section
variable {s v : State} {n : Nat}

/-- The outcome carried from `s` to `s.transmitterBeside v`. -/
abbrev besideTransmitter (s v : State) : Out → Out :=
  carried ((s.transmitterBeside v).withTransmitter s)

theorem eq_withTransmitter_nothing {t t' : State} (hhist : t.history = s.history)
    (h : t' = { s.transmitterBeside v with
      txBusy := t.txBusy, txCursor := t.txCursor, txRem := t.txRem, threads := t.threads
      txrdy := t.txrdy, fault := t.fault }) :
    t' = (s.transmitterBeside v).withTransmitter s t :=
  eq_withTransmitter [] (by rw [hhist, List.append_nil]) (by rw [h, List.append_nil])

theorem raiseFault_beside (c : FaultCode) (info : Nat) :
    raiseFault c info (s.transmitterBeside v) = besideTransmitter s v (raiseFault c info s) :=
  carried_next (eq_withTransmitter_nothing rfl rfl)

theorem setThread_beside (x : Thread) :
    .next ((s.transmitterBeside v).setThread n x) =
      besideTransmitter s v (.next (s.setThread n x)) :=
  carried_next (eq_withTransmitter_nothing rfl rfl)

theorem sendCall_beside (base : Nat) (len : Count) :
    sendCall n base len (s.transmitterBeside v) =
      besideTransmitter s v (sendCall n base len s) :=
  carried_threadStep rfl rfl fun _ =>
    ite_eq_map (raiseFault_beside _ _) <| ite_eq_map (raiseFault_beside _ _) <|
    ite_eq_map (raiseFault_beside _ _) (setThread_beside _)

theorem sendPolling_beside (base : Nat) (len : Count) :
    sendPolling n base len (s.transmitterBeside v) =
      besideTransmitter s v (sendPolling n base len s) :=
  carried_threadStep rfl rfl fun _ =>
    ite_eq_map (raiseFault_beside _ _) <| ite_eq_map (raiseFault_beside _ _) <|
    ite_eq_map (raiseFault_beside _ _) <| ite_eq_map (raiseFault_beside _ _) (setThread_beside _)

theorem txByte_beside :
    txByte (s.transmitterBeside v) = (s.transmitterBeside v).withTransmitter s (txByte s) :=
  eq_withTransmitter [_] rfl rfl

/-- TX_FIRST on the registers just loaded. -/
theorem txFirst_acquired_beside (th : Thread) :
    txFirst (acquired n th (s.transmitterBeside v)) =
      (s.transmitterBeside v).withTransmitter s (txFirst (acquired n th s)) :=
  ite_eq_map (eq_withTransmitter [_] rfl rfl) (eq_withTransmitter_nothing rfl rfl)

theorem acquire_beside :
    acquire n (s.transmitterBeside v) = besideTransmitter s v (acquire n s) :=
  carried_threadStep rfl rfl fun th =>
    carried_whenEnabled _ (carried_next (txFirst_acquired_beside th))

theorem sendReturn_beside :
    sendReturn n (s.transmitterBeside v) = besideTransmitter s v (sendReturn n s) :=
  carried_threadStep rfl rfl fun _ =>
    carried_whenEnabled _ (carried_next (eq_withTransmitter [_] rfl rfl))

theorem pollWrite_beside (th : Thread) :
    pollWrite n th (s.transmitterBeside v) =
      (s.transmitterBeside v).withTransmitter s (pollWrite n th s) := by
  by_cases hlast : th.idx + 1 = th.len
  · rw [pollWrite_of_eq n hlast, pollWrite_of_eq n hlast]
    exact eq_withTransmitter [_, _] rfl rfl
  · rw [pollWrite_of_ne n hlast, pollWrite_of_ne n hlast]
    exact eq_withTransmitter [_] rfl rfl

theorem pollFail_beside (th : Thread) :
    pollFail n th (s.transmitterBeside v) =
      (s.transmitterBeside v).withTransmitter s (pollFail n th s) :=
  ite_eq_map (eq_withTransmitter [_] rfl rfl) (eq_withTransmitter_nothing rfl rfl)

theorem pollStep_beside :
    pollStep n (s.transmitterBeside v) = besideTransmitter s v (pollStep n s) :=
  carried_threadStep rfl rfl fun th =>
    carried_next (ite_eq_map (pollWrite_beside th) (pollFail_beside th))

theorem transmitWord_beside {i : Instr} (hi : isTransmitWord i = true) :
    exec i (s.transmitterBeside v) = besideTransmitter s v (exec i s) := by
  cases i with
  | send => exact sendCall_beside _ _
  | psend => exact sendPolling_beside _ _
  | acq => exact acquire_beside
  | sret => exact sendReturn_beside
  | pstep => exact pollStep_beside
  | txi => exact carried_whenRunning rfl (carried_whenEnabled _ (carried_next txByte_beside))
  | lrdy =>
    exact carried_whenRunning rfl
      (carried_whenEnabled _ (carried_next (eq_withTransmitter_nothing rfl rfl)))
  | _ => cases hi

theorem transmitAction_beside {a : Action} (ha : isTransmitAction a = true) :
    perform a (s.transmitterBeside v) = besideTransmitter s v (perform a s) := by
  cases a with
  | send => exact sendCall_beside _ _
  | sendPolling => exact sendPolling_beside _ _
  | acquire => exact acquire_beside
  | sendReturn => exact sendReturn_beside
  | pollStep => exact pollStep_beside
  | _ => cases ha

end

/-! ### The receiver reads nothing of the transmitter's -/

/-- `s` with all that the receiver does not work on taken from `v`. -/
def State.receiverBeside (s v : State) : State :=
  { s with
    txBusy := v.txBusy, txCursor := v.txCursor, txRem := v.txRem, threads := v.threads
    txrdy := v.txrdy, mem := v.mem, history := v.history, sched := v.sched }

theorem State.SameReceiver.eq {s u : State} (h : s.SameReceiver u) : u = s.receiverBeside u := by
  obtain ⟨hcfg, hirq, hfault, hput, hget, hring, hpend, hact, hn, hdec, hkind, hlen, hidx, hpkg,
    hmods, hmode, hgen, hq, hfull, htime, hdraws⟩ := h
  rw [State.receiverBeside, ← hcfg, ← hirq, ← hfault, ← hput, ← hget, ← hring, ← hpend, ← hact, ← hn,
    ← hdec, ← hkind, ← hlen, ← hidx, ← hpkg, ← hmods, ← hmode, ← hgen, ← hq, ← hfull, ← htime,
    ← hdraws]

theorem eq_withReceiver {s u t t' : State} (xs : List Txn) (hhist : t.history = s.history ++ xs)
    (h : t' = { u with
      put := t.put, get := t.get, ring := t.ring, softPend := t.softPend, drActive := t.drActive
      drN := t.drN, decState := t.decState, pkgKind := t.pkgKind, pkgLen := t.pkgLen
      pkgIdx := t.pkgIdx, pkg := t.pkg, mods := t.mods, linkRxq := t.linkRxq
      timeIn := t.timeIn, draws := t.draws, history := u.history ++ xs }) :
    t' = u.withReceiver s t := by
  rw [h, State.withReceiver, emitted_eq hhist]

section
variable {s v : State}

theorem eq_withReceiver_nothing {t t' : State} (hhist : t.history = s.history)
    (h : t' = { s.receiverBeside v with
      put := t.put, get := t.get, ring := t.ring, softPend := t.softPend, drActive := t.drActive
      drN := t.drN, decState := t.decState, pkgKind := t.pkgKind, pkgLen := t.pkgLen
      pkgIdx := t.pkgIdx, pkg := t.pkg, mods := t.mods, linkRxq := t.linkRxq
      timeIn := t.timeIn, draws := t.draws }) :
    t' = (s.receiverBeside v).withReceiver s t :=
  eq_withReceiver [] (by rw [hhist, List.append_nil]) (by rw [h, List.append_nil])

/-- The outcome carried from `s` to `s.receiverBeside v`. -/
abbrev besideReceiver (s v : State) : Out → Out := carried ((s.receiverBeside v).withReceiver s)

theorem execIrqrx_beside : execIrqrx (s.receiverBeside v) = besideReceiver s v (execIrqrx s) := by
  refine carried_whenRunning rfl ?_
  have hq : (s.receiverBeside v).linkRxq = s.linkRxq := rfl
  rw [hq]
  cases s.linkRxq with
  | nil => rfl
  | cons c rest =>
    exact carried_whenEnabled _ (carried_next
      (ite_eq_map (eq_withReceiver_nothing rfl rfl) (eq_withReceiver_nothing rfl rfl)))

theorem drainBegin_beside :
    drainBegin (s.receiverBeside v) = (s.receiverBeside v).withReceiver s (drainBegin s) :=
  ite_eq_map (eq_withReceiver_nothing rfl rfl) (eq_withReceiver_nothing rfl rfl)

/-- ROUTE_TERM as the tracker's two tests (R144, R146). -/
theorem routeTerm_eq (b : Byte) (s : State) :
    routeTerm b s =
      if isHeld s.cfg (scancode b) then modSetClr (scancode b) (released b) s
      else if scancode b = s.cfg.capsSc then modCaps (released b) s
      else s.emit (.term b) := by
  unfold routeTerm modClassify
  split_ifs <;> rfl

theorem routeTerm_beside (b : Byte) :
    routeTerm b (s.receiverBeside v) = (s.receiverBeside v).withReceiver s (routeTerm b s) := by
  rw [routeTerm_eq, routeTerm_eq]
  exact ite_eq_map (eq_withReceiver_nothing rfl rfl) <|
    ite_eq_map (ite_eq_map (eq_withReceiver_nothing rfl rfl) (eq_withReceiver_nothing rfl rfl))
      (eq_withReceiver [_] rfl rfl)

theorem routeKey_beside (b : Byte) :
    routeKey b (s.receiverBeside v) = (s.receiverBeside v).withReceiver s (routeKey b s) :=
  ite_eq_map (ite_eq_map (eq_withReceiver [_] rfl rfl) (eq_withReceiver [_] rfl rfl)) <|
    ite_eq_map (eq_withReceiver [_] rfl rfl) (routeTerm_beside b)

theorem decPayload_beside (b : Byte) :
    decPayload b (s.receiverBeside v) = (s.receiverBeside v).withReceiver s (decPayload b s) := by
  by_cases hlast : s.pkgIdx + 1 = s.pkgLen
  · rw [decPayload_of_eq b hlast, decPayload_of_eq (s := s.receiverBeside v) b hlast]
    exact eq_withReceiver _ rfl rfl
  · rw [decPayload_of_ne b hlast, decPayload_of_ne (s := s.receiverBeside v) b hlast]
    exact eq_withReceiver_nothing rfl rfl

theorem decHeader_beside (b : Byte) (k : Kind) (len : BitVec 4) :
    decHeader b k len (s.receiverBeside v) =
      (s.receiverBeside v).withReceiver s (decHeader b k len s) :=
  eq_withReceiver_nothing rfl rfl

theorem decUnknown_beside (b : Byte) :
    decUnknown b (s.receiverBeside v) = (s.receiverBeside v).withReceiver s (decUnknown b s) :=
  eq_withReceiver [_] rfl rfl

theorem decodeInto_beside (b : Byte) :
    decodeInto b (s.receiverBeside v) = (s.receiverBeside v).withReceiver s (decodeInto b s) := by
  have hclass : classify (s.receiverBeside v).cfg (s.receiverBeside v).decState b =
      classify s.cfg s.decState b := rfl
  rw [decodeInto, decodeInto, hclass]
  cases classify s.cfg s.decState b with
  | payload => exact decPayload_beside b
  | hdrUnknown => exact decUnknown_beside b
  | hdrKnown k len => exact decHeader_beside b k len
  | keyPress | keyRelease => exact routeKey_beside b

/-- DRAIN_NEXT: the ring's part is written over what DECODE is carried to. -/
theorem decodeInto_drainTake_beside (b : Byte) :
    decodeInto b (drainTake (s.receiverBeside v)) =
      (s.receiverBeside v).withReceiver s (decodeInto b (drainTake s)) :=
  decodeInto_beside (s := drainTake s) b

theorem inIdle_beside {t t' : State} (h : t' = (s.receiverBeside v).withReceiver s t) :
    inIdle (s.receiverBeside v) t' = besideReceiver s v (inIdle s t) :=
  carried_whenRunning rfl (carried_whenEnabled _ (carried_next h))

theorem receiver_beside {i : Instr} (hi : i = .irqrx ∨ isSoftWord i = true) :
    exec i (s.receiverBeside v) = besideReceiver s v (exec i s) := by
  rcases hi with rfl | hsoft
  · exact execIrqrx_beside
  cases i with
  | softb => exact carried_whenRunning rfl (carried_whenEnabled _ (carried_next drainBegin_beside))
  | softn =>
    exact carried_whenRunning rfl
      (carried_whenEnabled _ (carried_next (decodeInto_drainTake_beside _)))
  | payload b =>
    exact carried_whenRunning rfl (carried_whenEnabled _ (carried_next (decPayload_beside b)))
  | hdrUnknown b => exact inIdle_beside (decUnknown_beside b)
  | keyPress sc | keyRelease sc => exact inIdle_beside (routeKey_beside _)
  | hdrMem b len | hdrAms b len | hdrRms b len | hdrClk b len | hdrJoy0 b len | hdrJoy1 b len =>
    exact inIdle_beside (decHeader_beside b _ len)
  | _ => cases hsoft

end

/-- Settles O54: the writes are the frames of the two sides; for the reads, the second state is the first
with the other side's fields replaced, and every test of a step is on a field that was not. -/
theorem transmitterSharesNoStateWithTheReceiver :
    Obligations.TransmitterSharesNoStateWithTheReceiver := by
  refine ⟨fun i s t h => ⟨fun hi => transmitWord_frame hi h, fun hi => receiver_keepsTransmitter hi h⟩,
    fun a s t h ha => transmitAction_frame ha h, fun s u h => ?transmitter, fun s u h i hi => ?receiver⟩
  case transmitter =>
    rw [h.eq]
    exact ⟨fun i hi => transmitWord_beside hi, fun a ha => transmitAction_beside ha⟩
  case receiver =>
    rw [h.eq]
    exact receiver_beside hi

end Sys2Proof.Machine
end
